-- ==== Sys2Proof/Word.lean ====
section
/-!
DEFINITION. The words of the machine: bytes, 16-bit words, 12-bit addresses and register numbers
(00_scope.md R7 to R9, 10_state.md R13).
-/
namespace Sys2Proof

/-- An 8-bit value: a general register, SP, a timer, a byte of memory (R7). -/
abbrev Byte := BitVec 8

/-- A 16-bit value: I, PC, a stack entry, an instruction word (R7). -/
abbrev Word := BitVec 16

/-- The 12-bit address field nnn of an instruction (R51). -/
abbrev Addr12 := BitVec 12

/-- The number of a general register, V0 to VF (R13). -/
abbrev Reg := Fin 16

/-- A hexadecimal key, 0 to 15 (60_exceptions.md R123). -/
abbrev Key := Fin 16

/-- An elapsed time, or an accumulator, in the unit of `timerPeriod` (10_state.md R25): never negative, by its type. -/
abbrev Time := Nat

end Sys2Proof
end

