-- ==== Sys2Proof/Syntax.lean ====
section
/-!
DEFINITION. The 35 instructions, one constructor per row of the opcode map (30_encoding.md R53), in the order of its
rows. Reserved words are no instruction (R54): the decoder names them.
-/
namespace Sys2Proof

/-- An instruction with its operands (30_encoding.md R53, R55). `x` and `y` are register numbers, `kk` an immediate
byte, `nnn` a 12-bit address and `n` a row count. -/
inductive Instr where
  /-- 0nnn `SYS addr` (R67). -/
  | sys (nnn : Addr12)
  /-- 00E0 `CLS` (R68). -/
  | cls
  /-- 00EE `RET` (R69). -/
  | ret
  /-- 1nnn `JP addr` (R70). -/
  | jp (nnn : Addr12)
  /-- Bnnn `JP V0, addr` (R71). -/
  | jpV0 (nnn : Addr12)
  /-- 2nnn `CALL addr` (R72). -/
  | call (nnn : Addr12)
  /-- 3xkk `SE Vx, byte` (R73). -/
  | seByte (x : Reg) (kk : Byte)
  /-- 4xkk `SNE Vx, byte` (R74). -/
  | sneByte (x : Reg) (kk : Byte)
  /-- 5xy0 `SE Vx, Vy` (R75). -/
  | seReg (x y : Reg)
  /-- 9xy0 `SNE Vx, Vy` (R76). -/
  | sneReg (x y : Reg)
  /-- 6xkk `LD Vx, byte` (R78). -/
  | ldByte (x : Reg) (kk : Byte)
  /-- 7xkk `ADD Vx, byte` (R79). -/
  | addByte (x : Reg) (kk : Byte)
  /-- 8xy0 `LD Vx, Vy` (R80). -/
  | ldReg (x y : Reg)
  /-- 8xy1 `OR Vx, Vy` (R81). -/
  | orReg (x y : Reg)
  /-- 8xy2 `AND Vx, Vy` (R82). -/
  | andReg (x y : Reg)
  /-- 8xy3 `XOR Vx, Vy` (R83). -/
  | xorReg (x y : Reg)
  /-- 8xy4 `ADD Vx, Vy` (R84). -/
  | addReg (x y : Reg)
  /-- 8xy5 `SUB Vx, Vy` (R85). -/
  | subReg (x y : Reg)
  /-- 8xy7 `SUBN Vx, Vy` (R86). -/
  | subnReg (x y : Reg)
  /-- 8xy6 `SHR Vx {, Vy}` (R87). `y` is decoded and ignored (R59). -/
  | shr (x y : Reg)
  /-- 8xyE `SHL Vx {, Vy}` (R88). `y` is decoded and ignored (R59). -/
  | shl (x y : Reg)
  /-- Cxkk `RND Vx, byte` (R89). -/
  | rnd (x : Reg) (kk : Byte)
  /-- Dxyn `DRW Vx, Vy, n` (R90). -/
  | drw (x y : Reg) (n : BitVec 4)
  /-- Ex9E `SKP Vx` (R91). -/
  | skp (x : Reg)
  /-- ExA1 `SKNP Vx` (R92). -/
  | sknp (x : Reg)
  /-- Fx07 `LD Vx, DT` (R93). -/
  | ldVxDT (x : Reg)
  /-- Fx0A `LD Vx, K` (R94). -/
  | ldVxK (x : Reg)
  /-- Fx15 `LD DT, Vx` (R95). -/
  | ldDTVx (x : Reg)
  /-- Fx18 `LD ST, Vx` (R96). -/
  | ldSTVx (x : Reg)
  /-- Annn `LD I, addr` (R97). -/
  | ldI (nnn : Addr12)
  /-- Fx1E `ADD I, Vx` (R98). -/
  | addI (x : Reg)
  /-- Fx29 `LD F, Vx` (R99). -/
  | ldF (x : Reg)
  /-- Fx33 `LD B, Vx` (R100). -/
  | ldB (x : Reg)
  /-- Fx55 `LD [I], Vx` (R101). -/
  | storeRegs (x : Reg)
  /-- Fx65 `LD Vx, [I]` (R102). -/
  | loadRegs (x : Reg)
  deriving DecidableEq, Repr

end Sys2Proof
end

