-- ==== Sys2Proof/Decode.lean ====
section
/-!
DEFINITION. The decoder, total on the 65536 words (30_encoding.md R54), and the encoder, written from the same opcode
map (R53). A reserved word is rejected by name.
-/
namespace Sys2Proof

/-- What the decoder reads from a word: an instruction of R53, or the outcome `Reserved` of R54 with the word. -/
inductive Decoded where
  /-- One of the 35 instructions. -/
  | instr (i : Instr)
  /-- An unknown sub-opcode (R56). It executes as `NotImplemented`. -/
  | reserved (w : Word)
  deriving DecidableEq, Repr

/-- F = w[15:12], the family (R51). -/
def fieldF (w : Word) : BitVec 4 := w.extractLsb' 12 4

/-- X = w[11:8], a register number (R51). -/
def fieldX (w : Word) : Reg := (w.extractLsb' 8 4).toFin

/-- Y = w[7:4], a register number (R51). -/
def fieldY (w : Word) : Reg := (w.extractLsb' 4 4).toFin

/-- N = w[3:0], the trailing nibble (R51). -/
def fieldN (w : Word) : BitVec 4 := w.extractLsb' 0 4

/-- KK = w[7:0], the immediate byte or the trailing-byte sub-opcode (R51). -/
def fieldKK (w : Word) : Byte := w.extractLsb' 0 8

/-- NNN = w[11:0], the 12-bit address (R51). -/
def fieldNNN (w : Word) : Addr12 := w.extractLsb' 0 12

/-- Family 0 (R54, R57): the whole 12-bit operand is compared. -/
def decodeFamily0 (w : Word) : Decoded :=
  if fieldNNN w = 0x0E0#12 then .instr .cls
  else if fieldNNN w = 0x0EE#12 then .instr .ret
  else .instr (.sys (fieldNNN w))

/-- Family 5 (R54, R58). -/
def decodeFamily5 (w : Word) : Decoded :=
  if fieldN w = 0#4 then .instr (.seReg (fieldX w) (fieldY w)) else .reserved w

/-- Family 8 (R54): the trailing nibble selects the operation. -/
def decodeFamily8 (w : Word) : Decoded :=
  match (fieldN w).toNat with
  | 0x0 => .instr (.ldReg (fieldX w) (fieldY w))
  | 0x1 => .instr (.orReg (fieldX w) (fieldY w))
  | 0x2 => .instr (.andReg (fieldX w) (fieldY w))
  | 0x3 => .instr (.xorReg (fieldX w) (fieldY w))
  | 0x4 => .instr (.addReg (fieldX w) (fieldY w))
  | 0x5 => .instr (.subReg (fieldX w) (fieldY w))
  | 0x6 => .instr (.shr (fieldX w) (fieldY w))
  | 0x7 => .instr (.subnReg (fieldX w) (fieldY w))
  | 0xE => .instr (.shl (fieldX w) (fieldY w))
  | _ => .reserved w

/-- Family 9 (R54, R58). -/
def decodeFamily9 (w : Word) : Decoded :=
  if fieldN w = 0#4 then .instr (.sneReg (fieldX w) (fieldY w)) else .reserved w

/-- Family E (R54): the trailing byte selects the key test. -/
def decodeFamilyE (w : Word) : Decoded :=
  if fieldKK w = 0x9E#8 then .instr (.skp (fieldX w))
  else if fieldKK w = 0xA1#8 then .instr (.sknp (fieldX w))
  else .reserved w

/-- Family F (R54): the trailing byte selects the operation. -/
def decodeFamilyF (w : Word) : Decoded :=
  if fieldKK w = 0x07#8 then .instr (.ldVxDT (fieldX w))
  else if fieldKK w = 0x0A#8 then .instr (.ldVxK (fieldX w))
  else if fieldKK w = 0x15#8 then .instr (.ldDTVx (fieldX w))
  else if fieldKK w = 0x18#8 then .instr (.ldSTVx (fieldX w))
  else if fieldKK w = 0x1E#8 then .instr (.addI (fieldX w))
  else if fieldKK w = 0x29#8 then .instr (.ldF (fieldX w))
  else if fieldKK w = 0x33#8 then .instr (.ldB (fieldX w))
  else if fieldKK w = 0x55#8 then .instr (.storeRegs (fieldX w))
  else if fieldKK w = 0x65#8 then .instr (.loadRegs (fieldX w))
  else .reserved w

/-- The decoder of R54. It reads the word and nothing else. -/
def decode (w : Word) : Decoded :=
  match (fieldF w).toNat with
  | 0x0 => decodeFamily0 w
  | 0x1 => .instr (.jp (fieldNNN w))
  | 0x2 => .instr (.call (fieldNNN w))
  | 0x3 => .instr (.seByte (fieldX w) (fieldKK w))
  | 0x4 => .instr (.sneByte (fieldX w) (fieldKK w))
  | 0x5 => decodeFamily5 w
  | 0x6 => .instr (.ldByte (fieldX w) (fieldKK w))
  | 0x7 => .instr (.addByte (fieldX w) (fieldKK w))
  | 0x8 => decodeFamily8 w
  | 0x9 => decodeFamily9 w
  | 0xA => .instr (.ldI (fieldNNN w))
  | 0xB => .instr (.jpV0 (fieldNNN w))
  | 0xC => .instr (.rnd (fieldX w) (fieldKK w))
  | 0xD => .instr (.drw (fieldX w) (fieldY w) (fieldN w))
  | 0xE => decodeFamilyE w
  | _ => decodeFamilyF w

/-- An instruction word from its two bytes (20_memory.md R39): the byte at the lower address is the high byte. -/
def wordOfBytes (hi lo : Byte) : Word := hi ++ lo

/-- The byte of a word that lies at the lower address (20_memory.md R39). -/
def highByte (w : Word) : Byte := w.extractLsb' 8 8

/-- The byte of a word that lies at the higher address (20_memory.md R39). -/
def lowByte (w : Word) : Byte := w.extractLsb' 0 8

/-- The decoder on the two bytes of an instruction, the lower address first. -/
def decodeBytes (hi lo : Byte) : Decoded := decode (wordOfBytes hi lo)

/-- Format XKK of R52: `ffff xxxx kkkk kkkk`. Formats XFF and XYF have the same shape with fixed low bits. -/
def wordXKK (f : BitVec 4) (x : Reg) (kk : Byte) : Word := (f ++ BitVec.ofFin (w := 4) x ++ kk : BitVec (4 + 4 + 8))

/-- Formats XYN and XYF of R52: `ffff xxxx yyyy nnnn`. -/
def wordXYN (f : BitVec 4) (x y : Reg) (n : BitVec 4) : Word :=
  (f ++ BitVec.ofFin (w := 4) x ++ BitVec.ofFin (w := 4) y ++ n : BitVec (4 + 4 + 4 + 4))

/-- Format NNN of R52: `ffff nnnn nnnn nnnn`. -/
def wordNNN (f : BitVec 4) (nnn : Addr12) : Word := (f ++ nnn : BitVec (4 + 12))

/-- The word of an instruction (R53). -/
def encode : Instr → Word
  | .sys nnn => wordNNN 0x0#4 nnn
  | .cls => 0x00E0#16
  | .ret => 0x00EE#16
  | .jp nnn => wordNNN 0x1#4 nnn
  | .jpV0 nnn => wordNNN 0xB#4 nnn
  | .call nnn => wordNNN 0x2#4 nnn
  | .seByte x kk => wordXKK 0x3#4 x kk
  | .sneByte x kk => wordXKK 0x4#4 x kk
  | .seReg x y => wordXYN 0x5#4 x y 0x0#4
  | .sneReg x y => wordXYN 0x9#4 x y 0x0#4
  | .ldByte x kk => wordXKK 0x6#4 x kk
  | .addByte x kk => wordXKK 0x7#4 x kk
  | .ldReg x y => wordXYN 0x8#4 x y 0x0#4
  | .orReg x y => wordXYN 0x8#4 x y 0x1#4
  | .andReg x y => wordXYN 0x8#4 x y 0x2#4
  | .xorReg x y => wordXYN 0x8#4 x y 0x3#4
  | .addReg x y => wordXYN 0x8#4 x y 0x4#4
  | .subReg x y => wordXYN 0x8#4 x y 0x5#4
  | .subnReg x y => wordXYN 0x8#4 x y 0x7#4
  | .shr x y => wordXYN 0x8#4 x y 0x6#4
  | .shl x y => wordXYN 0x8#4 x y 0xE#4
  | .rnd x kk => wordXKK 0xC#4 x kk
  | .drw x y n => wordXYN 0xD#4 x y n
  | .skp x => wordXKK 0xE#4 x 0x9E#8
  | .sknp x => wordXKK 0xE#4 x 0xA1#8
  | .ldVxDT x => wordXKK 0xF#4 x 0x07#8
  | .ldVxK x => wordXKK 0xF#4 x 0x0A#8
  | .ldDTVx x => wordXKK 0xF#4 x 0x15#8
  | .ldSTVx x => wordXKK 0xF#4 x 0x18#8
  | .ldI nnn => wordNNN 0xA#4 nnn
  | .addI x => wordXKK 0xF#4 x 0x1E#8
  | .ldF x => wordXKK 0xF#4 x 0x29#8
  | .ldB x => wordXKK 0xF#4 x 0x33#8
  | .storeRegs x => wordXKK 0xF#4 x 0x55#8
  | .loadRegs x => wordXKK 0xF#4 x 0x65#8

/-- The instruction word that the opcode table's `nbits` bits `w` stand for; bits above `nbits` are zero. -/
def tableWord (nbits w : Nat) : Word := (BitVec.ofNat nbits w).setWidth 16

/-- What the decoder reads from the bytes of the opcode table's word, laid out as the memory holds them (R39). -/
def decodeTableWord (nbits w : Nat) : Option Instr :=
  match decodeBytes (highByte (tableWord nbits w)) (lowByte (tableWord nbits w)) with
  | .instr i => some i
  | .reserved _ => none

end Sys2Proof
end

