-- ==== Sys2Proof/Config.lean ====
section
/-!
DEFINITION. The parameters of the hardware (00_scope.md R7) and the free values: the answers of the Random and Input
ports that no rule fixes (93_implementation_defined.md U6, U7).
-/
namespace Sys2Proof.Config

/-- TIMER_PERIOD, 1/60 s, in time units (R7, R25). R25 lets a model count time in whole units of which the period is a
whole number. DESIGN CHOICE (log entry 2): the unit is one millionth of a millionth of the period. -/
def timerPeriod : Time := 1000000000000

/-- MEM_SIZE (R7). Every address is reduced modulo this number (20_memory.md R36). -/
def memSize : Nat := 0x1000

/-- PROGRAM_BASE: the reset PC and the load address (R7). -/
def programBase : Nat := 0x200

/-- The longest program that fits above `programBase` (20_memory.md R42): 3584 bytes. -/
def maxProgram : Nat := memSize - programBase

/-- The answer to the collaborator call number `n` when that call is `GetRandomByte` and no answer was supplied: a free
value (60_exceptions.md R124, U6; log entry 4). It has no body, so nothing can be proved of it. -/
opaque randomByte : Nat → Byte

/-- The answer to the collaborator call number `n` when that call is `IsKeyPressed k` and no answer was supplied: a free
value (60_exceptions.md R123, U7; log entry 4). It has no body, so nothing can be proved of it. -/
opaque keyLevel : Nat → Byte → Bool

end Sys2Proof.Config
end

