-- ==== Sys2Proof/Machine/State.lean ====
section
/-!
DEFINITION. The state of the machine as plain data: every element of 10_state.md R30, the input events pending in the
Input port (R33), the reference Renderer's pixels (60_exceptions.md R127), and the model's own record of what the Host
and the collaborators do (log entries 3, 4, 5 and 6).
-/
namespace Sys2Proof.Machine

/-- The addressable memory `Mem` (20_memory.md R34): the bytes that differ from their value after reset, by rising
address. Its canonical form is `Memory.wf`. -/
abbrev Memory := List Host.Cell

/-- The pixels FB[0..31][0..63] of the reference Renderer (60_exceptions.md R127): 32 rows, bit `px` of a row being the
pixel in column `px`. -/
abbrev Framebuffer := Vector (BitVec 64) 32

/-- Why the run has stopped, with the information R111 lists (60_exceptions.md). -/
inductive StopReason where
  /-- The fetched word is SYS or `Reserved`; the word. -/
  | notImplemented (w : Word)
  /-- CALL with SP = 15, or RET with SP in 0x10..0xFE; SP. -/
  | stackOverflow (sp : Byte)
  /-- `Renderer.Draw` returned a nonzero error code; the code. -/
  | error (code : Int)
  /-- The drain met a `Quit` event. -/
  | quit
  deriving DecidableEq, Repr

/-- The run-state element `Run` (10_state.md R28). -/
inductive Run where
  /-- A Tick may be made. -/
  | active
  /-- Terminal except for hard reset (60_exceptions.md R110). -/
  | stopped (reason : StopReason)
  deriving DecidableEq, Repr

/-- The status a handler returns (30_encoding.md R62), with what R111 records of a failure. -/
inductive Status where
  /-- "advance PC by 2 after execution". -/
  | incrementPC
  /-- "handler already set PC, e.g. jumps/calls". -/
  | notIncrementPC
  /-- "enter suspend". -/
  | waitForKeyboard
  /-- "call/return stack discipline violated". -/
  | stackOverflow (sp : Byte)
  /-- "a collaborator, e.g. the renderer, reported failure". -/
  | error (code : Int)
  /-- "unknown/unsupported opcode". -/
  | notImplemented (w : Word)
  deriving DecidableEq, Repr

/-- An input event (60_exceptions.md R123). A KeyDown carries the key that `GetKey` answers for it. -/
inductive InputEvent where
  /-- `KeyDown`, of key `k`. -/
  | keyDown (k : Key)
  /-- `Quit`. -/
  | quit
  /-- `None`. -/
  | none
  deriving DecidableEq, Repr

/-- What the Host does between steps (60_exceptions.md R126). -/
inductive HostAction where
  /-- `Tick(dt)`, with the input events that have arrived since the last Tick. -/
  | tick (dt : Time) (events : List InputEvent)
  /-- `HardReset()`. -/
  | hardReset
  /-- `LoadProgram(bytes)`. -/
  | loadProgram (bytes : List Byte)
  /-- Set the `DoWrap` policy bit. -/
  | setDoWrap (wrap : Bool)
  deriving DecidableEq, Repr

/-- A collaborator call the core has made (60_exceptions.md R122 to R124), with its arguments. -/
inductive PortCall where
  /-- `Renderer.ClearScreen()`. -/
  | clearScreen
  /-- `Renderer.Draw(x, y, spriteRows, rowCount, wrap)`. -/
  | draw (x y : Byte) (rows : List Byte) (rowCount : Byte) (wrap : Bool)
  /-- `Input.IsKeyPressed(k)`. -/
  | isKeyPressed (k : Byte)
  /-- `Input.GetKey()`. -/
  | getKey
  /-- `Random.GetRandomByte()`. -/
  | getRandomByte
  deriving DecidableEq, Repr

/-- The Renderer's answer to a `Draw` (60_exceptions.md R122): "a nonzero error code signals a drawing failure". -/
structure DrawAnswer where
  collision : Bool
  errorCode : Int
  deriving DecidableEq, Repr

/-- A host error the model records (60_exceptions.md R125). -/
inductive HostError where
  /-- `LoadProgram` was given this many bytes, more than 3584. -/
  | programTooLong (length : Nat)
  deriving DecidableEq, Repr

/-- The whole state. The fields down to `mem` are the elements of 10_state.md R30; the others stand for the
collaborators and the Host. -/
structure State where
  /-- V0 to VF (R13). -/
  v : Vector Byte 16
  /-- The index register I (R17). -/
  i : Word
  /-- The program counter PC (R18). -/
  pc : Word
  /-- The stack pointer SP; 0xFF is the empty stack (R21). -/
  sp : Byte
  /-- The return addresses Stack[0..15] (R20). -/
  stack : Vector Word 16
  /-- The delay timer DT (R23). -/
  dt : Byte
  /-- The sound timer ST (R24). -/
  st : Byte
  /-- AccDT, the time since DT last decremented (R25). -/
  accDT : Time
  /-- AccST, the time since ST last decremented (R25). -/
  accST : Time
  /-- `Suspended`: true is `WaitingForKey` (R26). -/
  suspended : Bool
  /-- `WaitReg`, the register awaiting a keypress (R26). -/
  waitReg : Reg
  /-- `DoWrap`, the Host's policy bit (R27). -/
  doWrap : Bool
  /-- `Run` (R28). -/
  run : Run
  /-- `Mem` (20_memory.md R34). -/
  mem : Memory
  /-- The input events pending in the Input port, oldest first (R33). -/
  pending : List InputEvent
  /-- The reference Renderer's pixels (60_exceptions.md R127). -/
  fb : Framebuffer
  /-- The model's own: what the Host does next, one action a step; when it is empty the Host makes a Tick in which no
  time has passed and no event has arrived (log entry 3). -/
  script : List HostAction
  /-- The model's own: the answers supplied for the next `GetRandomByte` calls; when it is empty each answer is a free
  value (log entry 4). -/
  randomTape : List Byte
  /-- The model's own: the answers supplied for the next `IsKeyPressed` calls; when it is empty each answer is a free
  value (log entry 4). -/
  keyTape : List Bool
  /-- The model's own: the answers supplied for the next `Draw` calls; when it is empty the reference Renderer answers
  (log entry 5). -/
  drawTape : List DrawAnswer
  /-- The model's own: the collaborator calls the core has made, newest first (log entry 6). -/
  calls : List PortCall
  /-- The model's own: the host errors recorded, newest first (log entry 7). -/
  hostErrors : List HostError
  deriving DecidableEq, Repr

/-- The machine has no fault: every failure is a stop signal, a next state whose `run` names the reason
(60_exceptions.md R103, R109), and no access faults (20_memory.md R36). Nobody raises one; safe, since there is none. -/
inductive Fault where
  deriving DecidableEq, Repr

/-- Where the model has no step. -/
inductive Refusal where
  /-- Raised by `exec` for an instruction without a meaning; none is left. Safe: the model stops. -/
  | notModelled (mnemonic : String)
  /-- Raised by a Tick, a `LoadProgram` or a setting of `DoWrap` when `Run` is not Active: there is no step from a
  stopped state except hard reset (60_exceptions.md R110; U12 of 93_implementation_defined.md). Safe: the model stops
  where the spec has no step. -/
  | hostActionAfterStop
  deriving DecidableEq, Repr

/-- What a step or a meaning answers. -/
abbrev Result := Host.Outcome State Fault Refusal

/-- The cold-start state (70_reset_and_hazards.md R135, R136; 10_state.md R30). The memory lists nothing, so every
byte is the font's or 0; the display has been cleared by one `ClearScreen()`. `doWrap` and the fields that stand for
the Host and the collaborators have no reset value in the spec: their values are DESIGN CHOICES (log entries 1, 3, 4,
5 and 6). -/
def State.reset : State where
  v := Vector.replicate 16 0x00#8
  i := 0x0000#16
  pc := 0x0200#16
  sp := 0xFF#8
  stack := Vector.replicate 16 0x0000#16
  dt := 0x00#8
  st := 0x00#8
  accDT := 0
  accST := 0
  suspended := false
  waitReg := 0
  doWrap := false
  run := .active
  mem := []
  pending := []
  fb := Vector.replicate 32 0#64
  script := []
  randomTape := []
  keyTape := []
  drawTape := []
  calls := [.clearScreen]
  hostErrors := []

end Sys2Proof.Machine
end

