-- ==== Sys2Proof/Machine/Ops.lean ====
section
/-!
DEFINITION. The named operations over memory, registers and the stack, the stop signal and the driver's PC-advance
policy, and hard reset, which is the only way out of a stop.
-/
namespace Sys2Proof.Machine

/-! ## Memory -/

/-- The font, glyphs 0 to 7 (10_state.md R31). -/
def fontLow : List Byte :=
  [0xF0#8, 0x90#8, 0x90#8, 0x90#8, 0xF0#8, 0x20#8, 0x60#8, 0x20#8, 0x20#8, 0x70#8,
   0xF0#8, 0x10#8, 0xF0#8, 0x80#8, 0xF0#8, 0xF0#8, 0x10#8, 0xF0#8, 0x10#8, 0xF0#8,
   0x90#8, 0x90#8, 0xF0#8, 0x10#8, 0x10#8, 0xF0#8, 0x80#8, 0xF0#8, 0x10#8, 0xF0#8,
   0xF0#8, 0x80#8, 0xF0#8, 0x90#8, 0xF0#8, 0xF0#8, 0x10#8, 0x20#8, 0x40#8, 0x40#8]

/-- The font, glyphs 8 to F (10_state.md R31). -/
def fontHigh : List Byte :=
  [0xF0#8, 0x90#8, 0xF0#8, 0x90#8, 0xF0#8, 0xF0#8, 0x90#8, 0xF0#8, 0x10#8, 0xF0#8,
   0xF0#8, 0x90#8, 0xF0#8, 0x90#8, 0x90#8, 0xE0#8, 0x90#8, 0xE0#8, 0x90#8, 0xE0#8,
   0xF0#8, 0x80#8, 0x80#8, 0x80#8, 0xF0#8, 0xE0#8, 0x90#8, 0x90#8, 0x90#8, 0xE0#8,
   0xF0#8, 0x80#8, 0xF0#8, 0x80#8, 0xF0#8, 0xF0#8, 0x80#8, 0xF0#8, 0x80#8, 0x80#8]

/-- The 80 bytes FONT: the default value of that parameter (10_state.md R31; log entry 8). -/
def font : List Byte := fontLow ++ fontHigh

/-- What an address that no write has changed reads as (20_memory.md R49): the font byte, or 0. -/
def unlistedByte (a : Nat) : Byte := (font[a]?).getD 0x00#8

/-- The canonical form: addresses strictly rise, lie in the 4096-byte array, and no entry is what an unlisted address
reads as. -/
abbrev Memory.wf (m : Memory) : Prop :=
  m.Pairwise (fun c d => c.1 < d.1) ∧ ∀ c ∈ m, c.1 < Config.memSize ∧ c.2 ≠ unlistedByte c.1

/-- The byte at an address that has been reduced already. -/
def memLookup (a : Nat) : Memory → Byte
  | [] => unlistedByte a
  | (b, u) :: m => if a = b then u else memLookup a m

/-- The entry that holds `u` at `a`: none where an unlisted address reads so. -/
def memCell (a : Nat) (u : Byte) : Memory := if u = unlistedByte a then [] else [(a, u)]

/-- A write at an address that has been reduced already. -/
def memInsert (a : Nat) (u : Byte) : Memory → Memory
  | [] => memCell a u
  | (b, w) :: m =>
    if a < b then memCell a u ++ (b, w) :: m
    else if a = b then memCell a u ++ m
    else (b, w) :: memInsert a u m

/-- The reduction of every address the core forms (20_memory.md R36). -/
def reduceAddr (a : Nat) : Nat := a % Config.memSize

/-- `MemRead(a, 1)` (20_memory.md R37). -/
def readByte (a : Nat) (s : State) : Byte := memLookup (reduceAddr a) s.mem

/-- `MemWrite(a, 1, u)` (20_memory.md R37). -/
def writeByte (a : Nat) (u : Byte) (s : State) : State := { s with mem := memInsert (reduceAddr a) u s.mem }

/-- The bytes at `a`, `a + 1`, ..., `a + n - 1`, the sums untruncated (20_memory.md R36). -/
def readBytes (a n : Nat) (s : State) : List Byte := (List.range n).map (fun r => readByte (a + r) s)

/-- Writes bytes at `a`, `a + 1`, ... in this order (20_memory.md R45). -/
def writeBytes (a : Nat) : List Byte → State → State
  | [], s => s
  | u :: us, s => writeBytes (a + 1) us (writeByte a u s)

/-! ## Registers -/

/-- The flag register VF (10_state.md R15). -/
def vf : Reg := 15

/-- Reads `V[r]` (10_state.md R13). -/
def readReg (r : Reg) (s : State) : Byte := s.v[r.val]

/-- `V[r] <- u` (10_state.md R13). -/
def writeReg (r : Reg) (u : Byte) (s : State) : State := { s with v := s.v.set r.val u }

/-- `I <- a` (10_state.md R17). -/
def setI (a : Word) (s : State) : State := { s with i := a }

/-- `PC <- a` (10_state.md R18). -/
def jumpTo (a : Word) (s : State) : State := { s with pc := a }

/-- `PC <- trunc_16(PC + 2)` (10_state.md R19). -/
def advancePC (s : State) : State := { s with pc := s.pc + 2#16 }

/-! ## The stack -/

/-- The index `SP & 0xF` of a stack entry (40_system_flow.md R69). -/
def stackIndex (sp : Byte) : Fin 16 := (sp.extractLsb' 0 4).toFin

/-- Reads `Stack[SP & 0xF]` (40_system_flow.md R69). -/
def readStack (sp : Byte) (s : State) : Word := s.stack[(stackIndex sp).val]

/-- `SP <- sp`, then `Stack[SP] <- a` (40_system_flow.md R72). -/
def pushStack (sp : Byte) (a : Word) (s : State) : State :=
  { s with sp := sp, stack := s.stack.set (stackIndex sp).val a }

/-! ## The stop signal, the end of a handler, and hard reset -/

/-- Taking an exception: the stop signal, recorded in `Run` (60_exceptions.md R103, R109, R111). Nothing is saved and PC
keeps its value. -/
def stop (reason : StopReason) (s : State) : State := { s with run := .stopped reason }

/-- The driver after a handler: PC advances only on `IncrementPC` (30_encoding.md R63), and the three failures stop the
run (60_exceptions.md R109). -/
def afterHandler (status : Status) (s : State) : State :=
  match status with
  | .incrementPC => advancePC s
  | .notIncrementPC => s
  | .waitForKeyboard => s
  | .stackOverflow sp => stop (.stackOverflow sp) s
  | .error code => stop (.error code) s
  | .notImplemented w => stop (.notImplemented w) s

/-- A handler ends with a status; the machine goes on to the state the driver leaves. -/
def finish (status : Status) (s : State) : Result := .next (afterHandler status s)

/-- Records a collaborator call (60_exceptions.md R122 to R124). -/
def logCall (c : PortCall) (s : State) : State := { s with calls := c :: s.calls }

/-- `Renderer.ClearScreen()` (60_exceptions.md R122): the reference Renderer clears every pixel (R127). -/
def clearScreen (s : State) : State := logCall .clearScreen { s with fb := Vector.replicate 32 0#64 }

/-- `HardReset()` (70_reset_and_hazards.md R135): every element of the core takes its reset value, then the display is
cleared. `DoWrap` keeps its value, and so does what belongs to the Host and the collaborators. -/
def hardReset (s : State) : State :=
  clearScreen
    { s with
      v := Vector.replicate 16 0x00#8, i := 0x0000#16, pc := 0x0200#16, sp := 0xFF#8
      stack := Vector.replicate 16 0x0000#16
      dt := 0x00#8, st := 0x00#8, accDT := 0, accST := 0
      suspended := false, waitReg := 0, run := .active
      mem := [] }

end Sys2Proof.Machine
end

