-- ==== Sys2Proof/Machine/Flags.lean ====
section
/-!
DEFINITION. The values the flag VF takes (10_state.md R15, 41_alu.md R77) and the order in which a flag and a result are
written.
-/
namespace Sys2Proof.Machine

/-- A flag value: 1 if the condition holds, else 0. -/
def flagByte (cond : Bool) : Byte := if cond then 0x01#8 else 0x00#8

/-- The carry of 8xy4: 1 if and only if the exact sum exceeds 255 (41_alu.md R84). -/
def carryFlag (a b : Byte) : Byte := flagByte (decide (a.toNat + b.toNat > 255))

/-- The flag of 8xy5 and 8xy7: 1 if and only if the minuend is strictly greater (41_alu.md R85, R86). -/
def greaterFlag (minuend subtrahend : Byte) : Byte := flagByte (decide (minuend.toNat > subtrahend.toNat))

/-- The bit SHR shifts out (41_alu.md R87). -/
def lowBitFlag (a : Byte) : Byte := a &&& 0x01#8

/-- The bit SHL shifts out (41_alu.md R88). -/
def highBitFlag (a : Byte) : Byte := a >>> 7

/-- VF is written first and `V[X]` second, so with X = 15 the result stays (41_alu.md R77). -/
def writeFlagThenResult (x : Reg) (flag result : Byte) (s : State) : State := writeReg x result (writeReg vf flag s)

end Sys2Proof.Machine
end

