-- ==== Sys2Proof/Machine/Ports.lean ====
section
/-!
DEFINITION. The collaborator ports (60_exceptions.md R122 to R124) and the reference Renderer (R127). Each call is
recorded; its answer is the next one supplied, and without one a free value or the reference Renderer's answer.
-/
namespace Sys2Proof.Machine

/-! ## The reference Renderer (R127) -/

/-- FB[py][px]. -/
def pixel (px py : Nat) (fb : Framebuffer) : Bool := ((fb[py]?).getD 0#64).getLsbD px

/-- FB[py][px] <- FB[py][px] ^ 1. -/
def flipPixel (px py : Nat) (fb : Framebuffer) : Framebuffer :=
  fb.setIfInBounds py ((fb[py]?).getD 0#64 ^^^ (1#64 <<< px))

/-- One pixel of a sprite: bit 7 of the row byte is the leftmost. The pair is the collision so far and the pixels. -/
def drawPixel (row : Byte) (c px py : Nat) (acc : Bool × Framebuffer) : Bool × Framebuffer :=
  if row.getLsbD (7 - c) then (acc.1 || pixel px py acc.2, flipPixel px py acc.2) else acc

/-- The column loop of R127, over the columns that are left: it wraps, or breaks at the right edge. -/
def drawColumns (wrap : Bool) (x py : Nat) (row : Byte) : List Nat → Bool × Framebuffer → Bool × Framebuffer
  | [], acc => acc
  | c :: cs, acc =>
    if wrap then drawColumns wrap x py row cs (drawPixel row c ((x + c) % 64) py acc)
    else if x + c ≥ 64 then acc
    else drawColumns wrap x py row cs (drawPixel row c (x + c) py acc)

/-- The row loop of R127, over the rows that are left, the next of them at `y`: it wraps, or breaks at the bottom. -/
def drawRows (wrap : Bool) (x : Nat) : Nat → List Byte → Bool × Framebuffer → Bool × Framebuffer
  | _, [], acc => acc
  | y, row :: rows, acc =>
    if wrap then drawRows wrap x (y + 1) rows (drawColumns wrap x (y % 32) row (List.range 8) acc)
    else if y ≥ 32 then acc
    else drawRows wrap x (y + 1) rows (drawColumns wrap x y row (List.range 8) acc)

/-- The reference Renderer's `Draw`: the collision and the pixels it leaves. Its error code is always 0. -/
def referenceDraw (x y : Byte) (rows : List Byte) (wrap : Bool) (fb : Framebuffer) : Bool × Framebuffer :=
  drawRows wrap x.toNat y.toNat rows (false, fb)

/-! ## The calls -/

/-- `Renderer.Draw`'s answer (R122): the next one supplied, else the reference Renderer's. -/
def drawAnswer (x y : Byte) (rows : List Byte) (s : State) : DrawAnswer :=
  match s.drawTape with
  | a :: _ => a
  | [] => { collision := (referenceDraw x y rows s.doWrap s.fb).1, errorCode := 0 }

/-- The state after `Renderer.Draw` (R122): the call is recorded with `wrap` = `DoWrap`, and the reference Renderer's
pixels follow. -/
def afterDraw (x y : Byte) (rows : List Byte) (s : State) : State :=
  logCall (.draw x y rows (BitVec.ofNat 8 rows.length) s.doWrap)
    { s with fb := (referenceDraw x y rows s.doWrap s.fb).2, drawTape := s.drawTape.tail }

/-- `GetRandomByte()`'s answer (R124): the next one supplied, else a free value. -/
def randomAnswer (s : State) : Byte :=
  match s.randomTape with
  | r :: _ => r
  | [] => Config.randomByte s.calls.length

/-- The state after `GetRandomByte()`. -/
def afterRandom (s : State) : State := logCall .getRandomByte { s with randomTape := s.randomTape.tail }

/-- `IsKeyPressed(k)`'s answer (R123), `k` unreduced: the next one supplied, else a free value. -/
def keyAnswer (k : Byte) (s : State) : Bool :=
  match s.keyTape with
  | b :: _ => b
  | [] => Config.keyLevel s.calls.length k

/-- The state after `IsKeyPressed(k)`. No pending event is consumed (42_display_input.md R91). -/
def afterKeyTest (k : Byte) (s : State) : State := logCall (.isKeyPressed k) { s with keyTape := s.keyTape.tail }

end Sys2Proof.Machine
end

