-- ==== Sys2Proof/Machine/Alu.lean ====
section
/-!
DEFINITION. Register arithmetic, logic and random (41_alu.md). Operands are read before any register is written (R77).
-/
namespace Sys2Proof.Machine

/-- LD Vx, byte (R78). -/
def execLdByte (x : Reg) (kk : Byte) (s : State) : Result := finish .incrementPC (writeReg x kk s)

/-- ADD Vx, byte (R79). -/
def execAddByte (x : Reg) (kk : Byte) (s : State) : Result :=
  finish .incrementPC (writeReg x (readReg x s + kk) s)

/-- LD Vx, Vy (R80). -/
def execLdReg (x y : Reg) (s : State) : Result := finish .incrementPC (writeReg x (readReg y s) s)

/-- OR Vx, Vy (R81). -/
def execOrReg (x y : Reg) (s : State) : Result :=
  finish .incrementPC (writeReg x (readReg x s ||| readReg y s) s)

/-- AND Vx, Vy (R82). -/
def execAndReg (x y : Reg) (s : State) : Result :=
  finish .incrementPC (writeReg x (readReg x s &&& readReg y s) s)

/-- XOR Vx, Vy (R83). -/
def execXorReg (x y : Reg) (s : State) : Result :=
  finish .incrementPC (writeReg x (readReg x s ^^^ readReg y s) s)

/-- ADD Vx, Vy (R84). -/
def execAddReg (x y : Reg) (s : State) : Result :=
  finish .incrementPC
    (writeFlagThenResult x (carryFlag (readReg x s) (readReg y s)) (readReg x s + readReg y s) s)

/-- SUB Vx, Vy (R85). -/
def execSubReg (x y : Reg) (s : State) : Result :=
  finish .incrementPC
    (writeFlagThenResult x (greaterFlag (readReg x s) (readReg y s)) (readReg x s - readReg y s) s)

/-- SUBN Vx, Vy (R86). -/
def execSubnReg (x y : Reg) (s : State) : Result :=
  finish .incrementPC
    (writeFlagThenResult x (greaterFlag (readReg y s) (readReg x s)) (readReg y s - readReg x s) s)

/-- SHR Vx {, Vy} (R87): `V[Y]` is neither read nor written. -/
def execShr (x _y : Reg) (s : State) : Result :=
  finish .incrementPC (writeFlagThenResult x (lowBitFlag (readReg x s)) (readReg x s >>> 1) s)

/-- SHL Vx {, Vy} (R88): `V[Y]` is neither read nor written. -/
def execShl (x _y : Reg) (s : State) : Result :=
  finish .incrementPC (writeFlagThenResult x (highBitFlag (readReg x s)) (readReg x s <<< 1) s)

/-- RND Vx, byte (R89): exactly one call of the Random port. -/
def execRnd (x : Reg) (kk : Byte) (s : State) : Result :=
  finish .incrementPC (writeReg x (randomAnswer s &&& kk) (afterRandom s))

end Sys2Proof.Machine
end

