-- ==== Sys2Proof/Machine/Operands.lean ====
section
/-!
DEFINITION. The operand forms of the instructions (30_encoding.md R55) and the values formed from them.
-/
namespace Sys2Proof.Machine

/-- `zext_16(NNN)` (30_encoding.md R55). -/
def addrWord (nnn : Addr12) : Word := nnn.setWidth 16

/-- `zext_16` of a byte. -/
def byteWord (u : Byte) : Word := u.setWidth 16

/-- The address `I + k`, untruncated (20_memory.md R36). -/
def indexAddr (k : Nat) (s : State) : Nat := s.i.toNat + k

/-- The inner step of a skip: `PC <- trunc_16(PC + 2)` when the condition holds (30_encoding.md R64). -/
def skipIf (cond : Bool) (s : State) : State := if cond then advancePC s else s

/-- The sprite's column `V[X] % 64` (42_display_input.md R90). -/
def spriteX (x : Reg) (s : State) : Byte := readReg x s % 64#8

/-- The sprite's row `V[Y] % 32` (42_display_input.md R90). -/
def spriteY (y : Reg) (s : State) : Byte := readReg y s % 32#8

/-- The sprite's bytes, `MemRead(I + r, 1)` for r = 0 .. N-1 (42_display_input.md R90). -/
def spriteRows (n : BitVec 4) (s : State) : List Byte := readBytes (indexAddr 0 s) n.toNat s

/-- The hundreds, tens and units of a byte (44_index_memory.md R100). -/
def bcdDigits (u : Byte) : List Byte := [u / 100#8, u / 10#8 % 10#8, u % 10#8]

/-- `V[0..X]`, the registers a block transfer stores (44_index_memory.md R101). -/
def regBlock (x : Reg) (s : State) : List Byte := s.v.toList.take (x.val + 1)

/-- The register file after `V[i] <- MemRead(I + i, 1)` for i = 0 .. X (44_index_memory.md R102). -/
def loadBlock (x : Reg) (s : State) : Vector Byte 16 :=
  Vector.ofFn fun r : Fin 16 => if r.val ≤ x.val then readByte (indexAddr r.val s) s else readReg r s

end Sys2Proof.Machine
end

