-- ==== Sys2Proof/Machine/DisplayInput.lean ====
section
/-!
DEFINITION. The display and key-test instructions (42_display_input.md).
-/
namespace Sys2Proof.Machine

/-- The end of DRW once the Renderer has answered (R90): the error code is tested first, and VF is only ever set. -/
def finishDraw (a : DrawAnswer) (s : State) : Result :=
  if a.errorCode ≠ 0 then finish (.error a.errorCode) s
  else finish .incrementPC (if a.collision then writeReg vf 0x01#8 s else s)

/-- DRW Vx, Vy, n (R90). -/
def execDrw (x y : Reg) (n : BitVec 4) (s : State) : Result :=
  finishDraw (drawAnswer (spriteX x s) (spriteY y s) (spriteRows n s) s)
    (afterDraw (spriteX x s) (spriteY y s) (spriteRows n s) s)

/-- SKP Vx (R91). -/
def execSkp (x : Reg) (s : State) : Result :=
  finish .incrementPC (skipIf (keyAnswer (readReg x s) s) (afterKeyTest (readReg x s) s))

/-- SKNP Vx (R92). -/
def execSknp (x : Reg) (s : State) : Result :=
  finish .incrementPC (skipIf (!keyAnswer (readReg x s) s) (afterKeyTest (readReg x s) s))

end Sys2Proof.Machine
end

