-- ==== Sys2Proof/Machine/IndexMemory.lean ====
section
/-!
DEFINITION. The index-register and memory instructions (44_index_memory.md).
-/
namespace Sys2Proof.Machine

/-- LD I, addr (R97). -/
def execLdI (nnn : Addr12) (s : State) : Result := finish .incrementPC (setI (addrWord nnn) s)

/-- ADD I, Vx (R98): no flag. -/
def execAddI (x : Reg) (s : State) : Result := finish .incrementPC (setI (s.i + byteWord (readReg x s)) s)

/-- LD F, Vx (R99): the high nibble of `V[X]` is not masked off. -/
def execLdF (x : Reg) (s : State) : Result := finish .incrementPC (setI (5#16 * byteWord (readReg x s)) s)

/-- LD B, Vx (R100). -/
def execLdB (x : Reg) (s : State) : Result :=
  finish .incrementPC (writeBytes (indexAddr 0 s) (bcdDigits (readReg x s)) s)

/-- LD [I], Vx (R101): I is unchanged. -/
def execStoreRegs (x : Reg) (s : State) : Result :=
  finish .incrementPC (writeBytes (indexAddr 0 s) (regBlock x s) s)

/-- LD Vx, [I] (R102): I is unchanged. -/
def execLoadRegs (x : Reg) (s : State) : Result := finish .incrementPC { s with v := loadBlock x s }

end Sys2Proof.Machine
end

