-- ==== Sys2Proof/Machine/SystemFlow.lean ====
section
/-!
DEFINITION. The system and control-flow instructions (40_system_flow.md).
-/
namespace Sys2Proof.Machine

/-- SYS addr (R67): `NotImplemented`, with its word. -/
def execSys (nnn : Addr12) (s : State) : Result := finish (.notImplemented (addrWord nnn)) s

/-- CLS (R68). -/
def execCls (s : State) : Result := finish .incrementPC (clearScreen s)

/-- RET (R69). -/
def execRet (s : State) : Result :=
  if 0x10#8 ≤ s.sp ∧ s.sp ≤ 0xFE#8 then finish (.stackOverflow s.sp) s
  else finish .incrementPC { jumpTo (readStack s.sp s) s with sp := s.sp - 1#8 }

/-- JP addr (R70). -/
def execJp (nnn : Addr12) (s : State) : Result := finish .notIncrementPC (jumpTo (addrWord nnn) s)

/-- JP V0, addr (R71): the driver still adds 2. -/
def execJpV0 (nnn : Addr12) (s : State) : Result :=
  finish .incrementPC (jumpTo (addrWord nnn + byteWord (readReg 0 s)) s)

/-- CALL addr (R72): it pushes its own address. -/
def execCall (nnn : Addr12) (s : State) : Result :=
  if s.sp = 15#8 then finish (.stackOverflow s.sp) s
  else
    finish .notIncrementPC
      (jumpTo (addrWord nnn) (pushStack (if s.sp ≤ 14#8 then s.sp + 1#8 else 0#8) s.pc s))

/-- SE Vx, byte (R73). -/
def execSeByte (x : Reg) (kk : Byte) (s : State) : Result := finish .incrementPC (skipIf (readReg x s == kk) s)

/-- SNE Vx, byte (R74). -/
def execSneByte (x : Reg) (kk : Byte) (s : State) : Result := finish .incrementPC (skipIf (readReg x s != kk) s)

/-- SE Vx, Vy (R75). -/
def execSeReg (x y : Reg) (s : State) : Result := finish .incrementPC (skipIf (readReg x s == readReg y s) s)

/-- SNE Vx, Vy (R76). -/
def execSneReg (x y : Reg) (s : State) : Result := finish .incrementPC (skipIf (readReg x s != readReg y s) s)

end Sys2Proof.Machine
end

