-- ==== Sys2Proof/Machine/Timers.lean ====
section
/-!
DEFINITION. The Timer Subsystem (60_exceptions.md R119 to R121).
-/
namespace Sys2Proof.Machine

/-- The accumulator after `dt` more time (60_exceptions.md R119): at most one period is taken off. -/
def accAfter (acc dt : Time) : Time :=
  if acc + dt ≥ Config.timerPeriod then acc + dt - Config.timerPeriod else acc + dt

/-- The timer after `dt` more time (60_exceptions.md R119): at most one decrement, never below zero. -/
def timerAfter (t : Byte) (acc dt : Time) : Byte :=
  if acc + dt ≥ Config.timerPeriod then (if t = 0x00#8 then t else t - 1#8) else t

/-- `TimerUpdate(dt)` on both timers, each from its own accumulator (60_exceptions.md R105, R119). -/
def timerUpdate (dt : Time) (s : State) : State :=
  { s with
    dt := timerAfter s.dt s.accDT dt, accDT := accAfter s.accDT dt
    st := timerAfter s.st s.accST dt, accST := accAfter s.accST dt }

/-- `DT <- u`, and its accumulator restarts (60_exceptions.md R120). -/
def writeDT (u : Byte) (s : State) : State := { s with dt := u, accDT := 0 }

/-- `ST <- u`, and its accumulator restarts (60_exceptions.md R120). -/
def writeST (u : Byte) (s : State) : State := { s with st := u, accST := 0 }

end Sys2Proof.Machine
end

