-- ==== Sys2Proof/Machine/TimersKeys.lean ====
section
/-!
DEFINITION. The timer and key-wait instructions (43_timers_keys.md).
-/
namespace Sys2Proof.Machine

/-- LD Vx, DT (R93). -/
def execLdVxDT (x : Reg) (s : State) : Result := finish .incrementPC (writeReg x s.dt s)

/-- LD Vx, K (R94): the core suspends; PC stays at this instruction until a key arrives. -/
def execLdVxK (x : Reg) (s : State) : Result := finish .waitForKeyboard { s with waitReg := x, suspended := true }

/-- LD DT, Vx (R95). -/
def execLdDTVx (x : Reg) (s : State) : Result := finish .incrementPC (writeDT (readReg x s) s)

/-- LD ST, Vx (R96). -/
def execLdSTVx (x : Reg) (s : State) : Result := finish .incrementPC (writeST (readReg x s) s)

end Sys2Proof.Machine
end

