-- ==== Sys2Proof/Machine/Driver.lean ====
section
/-!
DEFINITION. The Tick Driver up to the execute step, the Suspend/Resume Controller, and the Host's other operations
(60_exceptions.md R104 to R107, R117, R125, R126).
-/
namespace Sys2Proof.Machine

/-- The first two bytes at PC, the lower address first (20_memory.md R39, 30_encoding.md R65). -/
def fetchHigh (s : State) : Byte := readByte s.pc.toNat s

/-- The second byte of the instruction at PC, at `trunc_16(PC + 1)` (30_encoding.md R65). -/
def fetchLow (s : State) : Byte := readByte (s.pc + 1#16).toNat s

/-- A reserved word executes as `NotImplemented` (30_encoding.md R56). -/
def execReserved (w : Word) (s : State) : Result := finish (.notImplemented w) s

/-- The end of a key wait (60_exceptions.md R117), with the one `GetKey` call it makes (R106). -/
def resume (k : Key) (s : State) : State :=
  advancePC { logCall .getKey (writeReg s.waitReg (BitVec.ofNat 8 k.val) s) with suspended := false }

/-- `DrainEvents` (60_exceptions.md R106) over the pending events, oldest first. The Boolean says that a Quit was met;
the events after it stay pending. -/
def drainEvents : List InputEvent → State → Bool × State
  | [], s => (false, { s with pending := [] })
  | .quit :: es, s => (true, { s with pending := es })
  | .keyDown k :: es, s => if s.suspended then drainEvents es (resume k s) else drainEvents es s
  | .none :: es, s => drainEvents es s

/-- `Stopped` is terminal: what may happen in an active state only is refused in a stopped one (60_exceptions.md
R110). -/
def whenActive (s : State) (o : Result) : Result :=
  match s.run with
  | .active => o
  | .stopped _ => .refused .hostActionAfterStop

/-- What a Tick comes to before its execute step. -/
inductive Prologue where
  /-- The Tick ends in this state. -/
  | halted (s : State)
  /-- The execute step runs in this state. -/
  | ready (s : State)

/-- The state after the timer update and the drain of a Tick (60_exceptions.md R105, R106), with the drain's answer. -/
def drained (dt : Time) (events : List InputEvent) (s : State) : Bool × State :=
  drainEvents (s.pending ++ events) (timerUpdate dt s)

/-- Steps (1) to (3) of a Tick (60_exceptions.md R104). -/
def tickPrologue (dt : Time) (events : List InputEvent) (s : State) : Prologue :=
  match drained dt events s with
  | (true, t) => .halted (stop .quit t)
  | (false, t) => if t.suspended then .halted t else .ready t

/-- `LoadProgram(bytes)` (60_exceptions.md R125): a plain copy to 0x200. Too many bytes have no effect but a host
error. -/
def loadProgram (bytes : List Byte) (s : State) : State :=
  if bytes.length ≤ Config.maxProgram then writeBytes Config.programBase bytes s
  else { s with hostErrors := .programTooLong bytes.length :: s.hostErrors }

/-- The Host sets `DoWrap` (10_state.md R27). -/
def setDoWrap (wrap : Bool) (s : State) : State := { s with doWrap := wrap }

/-- What the Host does in this step: the next action of its script, else a Tick with no time and no new event. -/
def hostAction (s : State) : HostAction := s.script.headD (.tick 0 [])

/-- The state once the Host's action has been taken from its script. -/
def takeAction (s : State) : State := { s with script := s.script.tail }

end Sys2Proof.Machine
end

