-- ==== Sys2Proof/Machine/Step.lean ====
section
/-!
DEFINITION. One step: one action of the Host, which is as a rule one Tick (60_exceptions.md R104, R126).
-/
namespace Sys2Proof.Machine

/-- The execute step (30_encoding.md R65): fetch, decode, run the handler. The driver's PC advance is part of every
meaning (`finish`). -/
def executeStep (s : State) : Result :=
  match decodeBytes (fetchHigh s) (fetchLow s) with
  | .instr i => exec i s
  | .reserved w => execReserved w s

/-- One Tick (60_exceptions.md R104), of an active machine (R110). -/
def tick (dt : Time) (events : List InputEvent) (s : State) : Result :=
  whenActive s
    (match tickPrologue dt events s with
    | .halted t => .next t
    | .ready t => executeStep t)

/-- One action of the Host (60_exceptions.md R126). Only a hard reset leads on from a stop (R110);
an active machine may be loaded between any two Ticks (log entry 9). -/
def perform (a : HostAction) (s : State) : Result :=
  match a with
  | .tick dt events => tick dt events s
  | .hardReset => .next (hardReset s)
  | .loadProgram bytes => whenActive s (.next (loadProgram bytes s))
  | .setDoWrap wrap => whenActive s (.next (setDoWrap wrap s))

/-- One step: the Host's next action. -/
def step (s : State) : Host.Outcome State Fault Refusal := perform (hostAction s) (takeAction s)

/-- `s` with the opcode table's word where the next step fetches, and that step a Tick that reaches its execute step:
the run is active and not suspended, and neither a Host action nor a pending event comes first. -/
def State.withFetchWord (s : State) (nbits w : Nat) : State :=
  { writeByte (s.pc + 1#16).toNat (lowByte (tableWord nbits w))
      (writeByte s.pc.toNat (highByte (tableWord nbits w)) s) with
    run := .active, suspended := false, script := [], pending := [] }

end Sys2Proof.Machine
end

