-- ==== Sys2Proof/Safety.lean ====
section
/-!
DEFINITION. The terms in which claims are stated: the stop signal, what a legal state is, and what a step leaves
unchanged.
-/
namespace Sys2Proof

open Sys2Proof.Machine

/-- What a Tick returns to its caller (60_exceptions.md R104, R109): true is `Stop`. -/
def stopSignal (s : State) : Bool := s.run != .active

/-- The values SP can hold in a run from reset (10_state.md R22). -/
abbrev legalSP (p : Byte) : Prop := p.toNat ≤ 15 ∨ p = 0xFE#8 ∨ p = 0xFF#8

/-- The word executes as `NotImplemented` (30_encoding.md R56): it decodes to SYS or is reserved. -/
def unimplemented (w : Word) : Bool :=
  match decode w with
  | .reserved _ => true
  | .instr (.sys _) => true
  | .instr _ => false

/-- The contract under which the core calls `Draw` (60_exceptions.md R122): the start lies on the display, and the row
count is the length of the rows, at most 15. -/
def legalCall : PortCall → Prop
  | .draw x y rows rowCount _ =>
    x.toNat ≤ 63 ∧ y.toNat ≤ 31 ∧ rowCount.toNat = rows.length ∧ rows.length ≤ 15
  | .clearScreen => True
  | .isKeyPressed _ => True
  | .getKey => True
  | .getRandomByte => True

/-- A recorded stop reason fits its cause in R111 (60_exceptions.md) and the SP the stop left. -/
def legalRun (sp : Byte) : Run → Prop
  | .active => True
  | .stopped .quit => True
  | .stopped (.notImplemented w) => unimplemented w = true
  | .stopped (.stackOverflow p) => p = sp ∧ (p = 15#8 ∨ p = 0xFE#8)
  | .stopped (.error code) => code ≠ 0

/-- A legal state: what reset establishes and every step keeps. -/
structure Inv (s : State) : Prop where
  /-- The memory is in its canonical form (20_memory.md R34, R49). -/
  mem : s.mem.wf
  /-- SP is a value a run can reach (10_state.md R22). -/
  sp : legalSP s.sp
  /-- A stop has a cause the table of R111 names (60_exceptions.md). -/
  run : legalRun s.sp s.run
  /-- Every call of the Renderer kept its contract (60_exceptions.md R122). -/
  calls : ∀ c ∈ s.calls, legalCall c

/-- The instructions that call a collaborator port (60_exceptions.md R122 to R124). -/
def callsPort : Instr → Bool
  | .cls | .rnd _ _ | .drw _ _ _ | .skp _ | .sknp _ => true
  | .sys _ | .ret | .jp _ | .jpV0 _ | .call _ => false
  | .seByte _ _ | .sneByte _ _ | .seReg _ _ | .sneReg _ _ => false
  | .ldByte _ _ | .addByte _ _ | .ldReg _ _ | .orReg _ _ | .andReg _ _ | .xorReg _ _ => false
  | .addReg _ _ | .subReg _ _ | .subnReg _ _ | .shr _ _ | .shl _ _ => false
  | .ldVxDT _ | .ldVxK _ | .ldDTVx _ | .ldSTVx _ => false
  | .ldI _ | .addI _ | .ldF _ | .ldB _ | .storeRegs _ | .loadRegs _ => false

/-- The core of `s` with the other agents of `p`: its collaborators (60_exceptions.md R122 to R124) and its Host (R126). -/
def withAgentsOf (p s : State) : State :=
  { s with
    pending := p.pending, fb := p.fb, script := p.script, randomTape := p.randomTape, keyTape := p.keyTape
    drawTape := p.drawTape, calls := p.calls, hostErrors := p.hostErrors }

/-- Every byte of memory reads as before. -/
def sameMemory (s t : State) : Prop := ∀ b, readByte b t = readByte b s

/-- Every byte reads as before, but for the `n` bytes from address `a` on, addresses reduced (20_memory.md R36). -/
def sameMemoryOutside (a n : Nat) (s t : State) : Prop :=
  ∀ b, (∀ k < n, reduceAddr b ≠ reduceAddr (a + k)) → readByte b t = readByte b s

/-- Every general register but those in `rs` is unchanged. -/
def sameRegsBut (rs : List Reg) (s t : State) : Prop := ∀ r, r ∉ rs → readReg r t = readReg r s

/-- Nothing but PC has changed: every register, flag, timer, stack entry, byte of memory and port is as before. -/
def onlyPC (s t : State) : Prop := t = { s with pc := t.pc } ∧ sameMemory s t

/-- Nothing but the general registers and PC has changed. -/
def onlyRegsPC (s t : State) : Prop := t = { s with v := t.v, pc := t.pc } ∧ sameMemory s t

/-- Nothing but I and PC has changed. -/
def onlyIndexPC (s t : State) : Prop := t = { s with i := t.i, pc := t.pc } ∧ sameMemory s t

/-- Nothing but memory and PC has changed. -/
def onlyMemoryPC (s t : State) : Prop := t = { s with mem := t.mem, pc := t.pc }

end Sys2Proof
end

