-- ==== Sys2Proof/Certificates/Slice0/Obligations.lean ====
section
/-!
DEFINITION. The statements for the provers. Each docstring names the rule or section of the spec it formalises, and the
spec's own decision (92_eei_decisions.md D<n>) or the model's log entry a clause rests on. The decode clauses follow the
opcode map of 30_encoding.md R53, whose rows 6 to 35 the spec marks as general knowledge (D6, G1).
-/

open Sys2Proof Sys2Proof.Machine

/-! ## Encoding -/

/-- Words written out from the opcode map (30_encoding.md R53), an instruction of every one of the 16 families and
reserved words of three. -/
def Obligations.WordsOfEveryFamilyDecode : Prop :=
  decode 0x0123#16 = .instr (.sys 0x123#12) ∧
  decode 0x00E0#16 = .instr .cls ∧
  decode 0x00EE#16 = .instr .ret ∧
  decode 0x1220#16 = .instr (.jp 0x220#12) ∧
  decode 0x2210#16 = .instr (.call 0x210#12) ∧
  decode 0x3A42#16 = .instr (.seByte 10 0x42#8) ∧
  decode 0x4F01#16 = .instr (.sneByte 15 0x01#8) ∧
  decode 0x5120#16 = .instr (.seReg 1 2) ∧
  decode 0x6A3C#16 = .instr (.ldByte 10 0x3C#8) ∧
  decode 0x71FF#16 = .instr (.addByte 1 0xFF#8) ∧
  decode 0x8127#16 = .instr (.subnReg 1 2) ∧
  decode 0x833E#16 = .instr (.shl 3 3) ∧
  decode 0x8128#16 = .reserved 0x8128#16 ∧
  decode 0x9120#16 = .instr (.sneReg 1 2) ∧
  decode 0x912F#16 = .reserved 0x912F#16 ∧
  decode 0xA300#16 = .instr (.ldI 0x300#12) ∧
  decode 0xB300#16 = .instr (.jpV0 0x300#12) ∧
  decode 0xC10F#16 = .instr (.rnd 1 0x0F#8) ∧
  decode 0xD125#16 = .instr (.drw 1 2 5#4) ∧
  decode 0xE5A1#16 = .instr (.sknp 5) ∧
  decode 0xFB0A#16 = .instr (.ldVxK 11) ∧
  decode 0xF365#16 = .instr (.loadRegs 3) ∧
  decode 0xF020#16 = .reserved 0xF020#16

/-- Every well-formed instruction is read back from its word (30_encoding.md R53, R54). -/
def Obligations.DecodeOfEncodeIsIdentity : Prop :=
  ∀ i : Instr, i.wellFormed = true → decode (encode i) = .instr i

/-- Every word has one meaning: the instruction read from it is well formed and encodes to it, so that no bit of an
implemented word is dropped (30_encoding.md R54, R59). -/
def Obligations.EncodeOfDecodeIsIdentity : Prop :=
  ∀ (w : Word) (i : Instr), decode w = .instr i → i.wellFormed = true ∧ encode i = w

/-- The fields of a word are the bits the table of 30_encoding.md R51 gives them. -/
def Obligations.FieldsAreTheirBits : Prop :=
  ∀ w : Word,
    (fieldF w).toNat = w.toNat / 0x1000 ∧
    (fieldX w).val = w.toNat / 0x100 % 16 ∧
    (fieldY w).val = w.toNat / 0x10 % 16 ∧
    (fieldN w).toNat = w.toNat % 16 ∧
    (fieldKK w).toNat = w.toNat % 0x100 ∧
    (fieldNNN w).toNat = w.toNat % 0x1000

/-- The reserved words are those the table of 30_encoding.md R56 lists beside SYS (families 5 and 9: the spec's decision
D4), and a reserved word is recorded as it is. -/
def Obligations.ReservedWordsAreUnknownSubOpcodes : Prop :=
  ∀ w u : Word,
    decode w = .reserved u ↔
      u = w ∧
        ((fieldF w = 0x5#4 ∧ fieldN w ≠ 0x0#4) ∨
          (fieldF w = 0x8#4 ∧ (0x8 ≤ (fieldN w).toNat ∧ (fieldN w).toNat ≤ 0xD ∨ fieldN w = 0xF#4)) ∨
          (fieldF w = 0x9#4 ∧ fieldN w ≠ 0x0#4) ∨
          (fieldF w = 0xE#4 ∧ fieldKK w ≠ 0x9E#8 ∧ fieldKK w ≠ 0xA1#8) ∨
          (fieldF w = 0xF#4 ∧
            fieldKK w ∉ [0x07#8, 0x0A#8, 0x15#8, 0x18#8, 0x1E#8, 0x29#8, 0x33#8, 0x55#8, 0x65#8]))

/-- In family 0 the whole operand is compared: only 0x00E0 is CLS and only 0x00EE is RET (30_encoding.md R57, the
spec's decision D5). -/
def Obligations.OnlyExactWordsAreClsAndRet : Prop :=
  ∀ w : Word,
    (decode w = .instr .cls ↔ w = 0x00E0#16) ∧
    (decode w = .instr .ret ↔ w = 0x00EE#16) ∧
    (fieldF w = 0x0#4 → w ≠ 0x00E0#16 → w ≠ 0x00EE#16 → decode w = .instr (.sys (fieldNNN w)))

/-! ## Steps -/

/-- A step that is a Tick updates the timers, drains the events and then runs the instruction that the two bytes at PC
decode to (60_exceptions.md R104, R108; 30_encoding.md R65). While the core does not wait, the drain discards its
events, when no Quit is among them, and changes nothing else (R106, the spec's decisions D14 and D16). That the Host's
actions come from a script is the model's (log entry 3), and so is that pending events come before the new ones (log
entry 10). -/
def Obligations.StepRunsDecodedInstruction : Prop :=
  (∀ (s t : State) (d : Time) (es : List InputEvent) (i : Instr),
    hostAction s = .tick d es → s.run = .active →
    drained d es (takeAction s) = (false, t) → t.suspended = false →
    decodeBytes (readByte t.pc.toNat t) (readByte (t.pc + 1#16).toNat t) = .instr i →
    step s = exec i t) ∧
  ∀ (s : State) (d : Time) (es : List InputEvent), s.suspended = false → (∀ e ∈ s.pending ++ es, e ≠ .quit) →
    drained d es (takeAction s) = (false, { timerUpdate d (takeAction s) with pending := [] })

/-- A word that is no instruction stops the run with `NotImplemented` and changes nothing else of the state in which
it is fetched (30_encoding.md R56; script: log entry 3). -/
def Obligations.StepStopsOnReservedWord : Prop :=
  ∀ (s t : State) (d : Time) (es : List InputEvent) (w : Word),
    hostAction s = .tick d es → s.run = .active →
    drained d es (takeAction s) = (false, t) → t.suspended = false →
    decodeBytes (readByte t.pc.toNat t) (readByte (t.pc + 1#16).toNat t) = .reserved w →
    step s = .next { t with run := .stopped (.notImplemented w) }

/-- The three failure statuses stop the run and the Tick returns `Stop`; the three others let it go on (60_exceptions.md
R109). -/
def Obligations.FailureStatusesStopTheRun : Prop :=
  ∀ (s : State) (p : Byte) (code : Int) (w : Word), s.run = .active →
    (∃ t, finish (.notImplemented w) s = .next t ∧ t.run = .stopped (.notImplemented w) ∧ stopSignal t = true) ∧
    (∃ t, finish (.stackOverflow p) s = .next t ∧ t.run = .stopped (.stackOverflow p) ∧ stopSignal t = true) ∧
    (∃ t, finish (.error code) s = .next t ∧ t.run = .stopped (.error code) ∧ stopSignal t = true) ∧
    (∀ st : Status, st = .incrementPC ∨ st = .notIncrementPC ∨ st = .waitForKeyboard → ∃ t,
      finish st s = .next t ∧ stopSignal t = false ∧
      t = { s with pc := if st = .incrementPC then s.pc + 2#16 else s.pc })

/-- The word placed by `withFetchWord` is the one the next step runs, in the state after a timer update with no time
(log entry 3). -/
def Obligations.PlacedWordIsRunByTheNextStep : Prop :=
  ∀ (s : State) (w : Nat) (i : Instr), s.mem.wf → decodeTableWord 16 w = some i →
    step (s.withFetchWord 16 w) = exec i (timerUpdate 0 (s.withFetchWord 16 w))

/-- The fetch is big-endian: the word is mem[PC] * 256 + mem[PC+1], and at the top of memory its second byte comes from
address 0 (20_memory.md R39, the spec's decisions D1 and D2). -/
def Obligations.FetchIsBigEndianAndWraps : Prop :=
  ∀ s : State,
    (wordOfBytes (fetchHigh s) (fetchLow s)).toNat =
      (readByte s.pc.toNat s).toNat * 256 + (readByte (s.pc.toNat + 1) s).toNat ∧
    (s.pc.toNat % 0x1000 = 0xFFF → fetchLow s = readByte 0 s)

/-- The model has a next state from every state, but for a stopped machine, of which it refuses every action of the
Host other than a hard reset (60_exceptions.md R110, the spec's decision D13; script: log entry 3; a load of any
active machine: log entry 9). -/
def Obligations.OnlyHardResetLeavesAStop : Prop :=
  ∀ s : State,
    (step s = .refused .hostActionAfterStop ↔ (∃ r, s.run = .stopped r) ∧ hostAction s ≠ .hardReset) ∧
    (step s ≠ .refused .hostActionAfterStop → ∃ t, step s = .next t)

/-! ## Invariants -/

/-- Every step keeps a legal state legal: the memory canonical, SP in the values a run can reach, a recorded stop with
its cause, and the Renderer's contract kept (10_state.md R22, 20_memory.md R49, 60_exceptions.md R111, R122). -/
def Obligations.StepKeepsLegalState : Prop :=
  ∀ s t : State, Inv s → step s = .next t → Inv t

/-- The state after reset is legal. -/
def Obligations.ResetStateIsLegal : Prop := Inv State.reset

/-- SP holds 0..15, 0xFF or 0xFE at reset, and every step that starts from such a value ends with one (10_state.md
R22). -/
def Obligations.StackPointerStaysLegal : Prop :=
  legalSP State.reset.sp ∧ ∀ s t : State, legalSP s.sp → step s = .next t → legalSP t.sp

/-- Memories in canonical form that read alike at every address are equal (20_memory.md R34, R49). -/
def Obligations.CanonicalMemoriesThatReadAlikeAreEqual : Prop :=
  ∀ m n : Memory, m.wf → n.wf → (∀ a, memLookup a m = memLookup a n) → m = n

/-! ## Memory -/

/-- `MemRead` and `MemWrite` reduce their address modulo 0x1000; a write changes one byte (20_memory.md R36, R37, the
spec's decision D1). -/
def Obligations.WriteChangesOneByteModuloMemorySize : Prop :=
  ∀ (a b : Nat) (u : Byte) (s : State), s.mem.wf →
    readByte a s = readByte (a % 0x1000) s ∧
    readByte b (writeByte a u s) = (if b % 0x1000 = a % 0x1000 then u else readByte b s) ∧
    writeByte a u s = { s with mem := (writeByte a u s).mem } ∧
    writeByte a u (writeByte a u s) = writeByte a u s

/-- Of all instructions only LD B and LD [I] change a byte of memory (20_memory.md R38). -/
def Obligations.OnlyBlockStoresWriteMemory : Prop :=
  ∀ (i : Instr) (s t : State),
    (∀ x, i ≠ .ldB x) → (∀ x, i ≠ .storeRegs x) → exec i s = .next t → t.mem = s.mem ∧ sameMemory s t

/-! ## System and control flow -/

/-- SYS stops the run with `NotImplemented` and its word; nothing else changes (40_system_flow.md R67). -/
def Obligations.SysStopsNotImplemented : Prop :=
  (∀ w : Word, fieldF w = 0x0#4 → fieldNNN w ≠ 0x0E0#12 → fieldNNN w ≠ 0x0EE#12 →
    decode w = .instr (.sys (fieldNNN w))) ∧
  ∀ (nnn : Addr12) (s : State), ∃ t,
    exec (.sys nnn) s = .next t ∧
    t = { s with run := .stopped (.notImplemented (BitVec.ofNat 16 nnn.toNat)) } ∧
    t.pc = s.pc ∧ stopSignal t = true

/-- CLS makes one `ClearScreen` call and advances PC; no register, flag or byte of memory changes (40_system_flow.md
R68; its status is the spec's decision D24). The pixels are the reference Renderer's (60_exceptions.md R127, D19). -/
def Obligations.ClsClearsTheScreenOnly : Prop :=
  decode 0x00E0#16 = .instr .cls ∧
  ∀ s : State, ∃ t,
    exec .cls s = .next t ∧
    t.calls = .clearScreen :: s.calls ∧
    (∀ px py, pixel px py t.fb = false) ∧
    t.pc = s.pc + 2#16 ∧
    t = { s with pc := t.pc, calls := t.calls, fb := t.fb } ∧ sameMemory s t

/-- RET fails when SP is in 0x10..0xFE; else it continues after the CALL whose address the entry `SP & 0xF` holds, and
SP goes down by one (40_system_flow.md R69; its status is the spec's decision D23). -/
def Obligations.RetPopsOrOverflows : Prop :=
  decode 0x00EE#16 = .instr .ret ∧
  (∀ s : State, 0x10 ≤ s.sp.toNat → s.sp.toNat ≤ 0xFE →
    exec .ret s = .next { s with run := .stopped (.stackOverflow s.sp) }) ∧
  (∀ s : State, s.sp.toNat ≤ 0x0F ∨ s.sp.toNat = 0xFF → ∃ t,
    exec .ret s = .next t ∧
    some t.pc = (s.stack[s.sp.toNat % 16]?).map (fun a => a + 2#16) ∧
    t.sp.toNat = (if s.sp.toNat = 0 then 0xFF else s.sp.toNat - 1) ∧
    t = { s with pc := t.pc, sp := t.sp } ∧ sameMemory s t)

/-- JP sets PC to its address, and nothing else changes (40_system_flow.md R70). -/
def Obligations.JpSetsPC : Prop :=
  (∀ w : Word, fieldF w = 0x1#4 → decode w = .instr (.jp (fieldNNN w))) ∧
  ∀ (nnn : Addr12) (s : State), ∃ t,
    exec (.jp nnn) s = .next t ∧ t.pc.toNat = nnn.toNat ∧ onlyPC s t

/-- JP V0 continues at NNN + V0 + 2, not reduced to 12 bits (40_system_flow.md R71; the spec's decision D33). -/
def Obligations.JpV0ContinuesTwoPastItsTarget : Prop :=
  (∀ w : Word, fieldF w = 0xB#4 → decode w = .instr (.jpV0 (fieldNNN w))) ∧
  ∀ (nnn : Addr12) (s : State), ∃ t,
    exec (.jpV0 nnn) s = .next t ∧ t.pc.toNat = nnn.toNat + (readReg 0 s).toNat + 2 ∧ onlyPC s t

/-- CALL fails when SP = 15; else it pushes its own address at the next index (0 from the empty or a corrupted SP) and
jumps (40_system_flow.md R72). -/
def Obligations.CallPushesItsOwnAddress : Prop :=
  (∀ w : Word, fieldF w = 0x2#4 → decode w = .instr (.call (fieldNNN w))) ∧
  (∀ (nnn : Addr12) (s : State), s.sp = 15#8 →
    exec (.call nnn) s = .next { s with run := .stopped (.stackOverflow 15#8) }) ∧
  (∀ (nnn : Addr12) (s : State), s.sp ≠ 15#8 → ∃ t,
    exec (.call nnn) s = .next t ∧
    t.sp.toNat = (if s.sp.toNat ≤ 14 then s.sp.toNat + 1 else 0) ∧
    t.stack[t.sp.toNat]? = some s.pc ∧
    (∀ j : Nat, j ≠ t.sp.toNat → t.stack[j]? = s.stack[j]?) ∧
    t.pc.toNat = nnn.toNat ∧
    t = { s with pc := t.pc, sp := t.sp, stack := t.stack } ∧ sameMemory s t)

/-- A CALL and then a RET come back to the instruction after the CALL, with SP as before (90_conflicts.md C1;
95_test_vectors.md E5). -/
def Obligations.CallThenRetComesBack : Prop :=
  ∀ (nnn : Addr12) (s : State), s.sp.toNat ≤ 14 ∨ s.sp = 0xFF#8 → ∃ t u,
    exec (.call nnn) s = .next t ∧ exec .ret t = .next u ∧
    u.pc = s.pc + 2#16 ∧ u.sp = s.sp ∧ u = { s with pc := u.pc, stack := u.stack }

/-- SE and SNE with a byte: a net +4 when the condition holds, else +2 (40_system_flow.md R73, R74). -/
def Obligations.ByteSkipsAddFourOrTwo : Prop :=
  (∀ w : Word, fieldF w = 0x3#4 → decode w = .instr (.seByte (fieldX w) (fieldKK w))) ∧
  (∀ w : Word, fieldF w = 0x4#4 → decode w = .instr (.sneByte (fieldX w) (fieldKK w))) ∧
  ∀ (x : Reg) (kk : Byte) (s : State),
    (∃ t, exec (.seByte x kk) s = .next t ∧
      t.pc = s.pc + (if readReg x s = kk then 4#16 else 2#16) ∧ onlyPC s t) ∧
    (∃ t, exec (.sneByte x kk) s = .next t ∧
      t.pc = s.pc + (if readReg x s = kk then 2#16 else 4#16) ∧ onlyPC s t)

/-- SE and SNE with a register: a net +4 when the condition holds, else +2 (40_system_flow.md R75, R76;
N other than 0 is reserved by the spec's decision D4). -/
def Obligations.RegisterSkipsAddFourOrTwo : Prop :=
  (∀ w : Word, fieldF w = 0x5#4 → fieldN w = 0x0#4 → decode w = .instr (.seReg (fieldX w) (fieldY w))) ∧
  (∀ w : Word, fieldF w = 0x5#4 → fieldN w ≠ 0x0#4 → decode w = .reserved w) ∧
  (∀ w : Word, fieldF w = 0x9#4 → fieldN w = 0x0#4 → decode w = .instr (.sneReg (fieldX w) (fieldY w))) ∧
  (∀ w : Word, fieldF w = 0x9#4 → fieldN w ≠ 0x0#4 → decode w = .reserved w) ∧
  ∀ (x y : Reg) (s : State),
    (∃ t, exec (.seReg x y) s = .next t ∧
      t.pc = s.pc + (if readReg x s = readReg y s then 4#16 else 2#16) ∧ onlyPC s t) ∧
    (∃ t, exec (.sneReg x y) s = .next t ∧
      t.pc = s.pc + (if readReg x s = readReg y s then 2#16 else 4#16) ∧ onlyPC s t)

/-! ## Register arithmetic, logic and random -/

/-- LD Vx, byte and LD Vx, Vy (41_alu.md R78, R80). -/
def Obligations.LoadsCopyIntoOneRegister : Prop :=
  (∀ w : Word, fieldF w = 0x6#4 → decode w = .instr (.ldByte (fieldX w) (fieldKK w))) ∧
  (∀ w : Word, fieldF w = 0x8#4 → fieldN w = 0x0#4 → decode w = .instr (.ldReg (fieldX w) (fieldY w))) ∧
  (∀ (x : Reg) (kk : Byte) (s : State), ∃ t,
    exec (.ldByte x kk) s = .next t ∧ readReg x t = kk ∧
    sameRegsBut [x] s t ∧ t.pc = s.pc + 2#16 ∧ onlyRegsPC s t) ∧
  (∀ (x y : Reg) (s : State), ∃ t,
    exec (.ldReg x y) s = .next t ∧ readReg x t = readReg y s ∧
    sameRegsBut [x] s t ∧ t.pc = s.pc + 2#16 ∧ onlyRegsPC s t)

/-- ADD Vx, byte adds modulo 256 and produces no carry (41_alu.md R79). -/
def Obligations.AddByteWrapsWithoutCarry : Prop :=
  (∀ w : Word, fieldF w = 0x7#4 → decode w = .instr (.addByte (fieldX w) (fieldKK w))) ∧
  ∀ (x : Reg) (kk : Byte) (s : State), ∃ t,
    exec (.addByte x kk) s = .next t ∧
    (readReg x t).toNat = ((readReg x s).toNat + kk.toNat) % 256 ∧
    sameRegsBut [x] s t ∧ t.pc = s.pc + 2#16 ∧ onlyRegsPC s t

/-- OR, AND and XOR work bit by bit and leave VF alone unless it is the destination (41_alu.md R81, R82, R83). -/
def Obligations.LogicWorksBitByBitWithoutFlag : Prop :=
  (∀ w : Word, fieldF w = 0x8#4 → fieldN w = 0x1#4 → decode w = .instr (.orReg (fieldX w) (fieldY w))) ∧
  (∀ w : Word, fieldF w = 0x8#4 → fieldN w = 0x2#4 → decode w = .instr (.andReg (fieldX w) (fieldY w))) ∧
  (∀ w : Word, fieldF w = 0x8#4 → fieldN w = 0x3#4 → decode w = .instr (.xorReg (fieldX w) (fieldY w))) ∧
  ∀ (x y : Reg) (s : State),
    (∃ t, exec (.orReg x y) s = .next t ∧
      (∀ k, (readReg x t).getLsbD k = ((readReg x s).getLsbD k || (readReg y s).getLsbD k)) ∧
      sameRegsBut [x] s t ∧ t.pc = s.pc + 2#16 ∧ onlyRegsPC s t) ∧
    (∃ t, exec (.andReg x y) s = .next t ∧
      (∀ k, (readReg x t).getLsbD k = ((readReg x s).getLsbD k && (readReg y s).getLsbD k)) ∧
      sameRegsBut [x] s t ∧ t.pc = s.pc + 2#16 ∧ onlyRegsPC s t) ∧
    (∃ t, exec (.xorReg x y) s = .next t ∧
      (∀ k, (readReg x t).getLsbD k = ((readReg x s).getLsbD k ^^ (readReg y s).getLsbD k)) ∧
      sameRegsBut [x] s t ∧ t.pc = s.pc + 2#16 ∧ onlyRegsPC s t)

/-- ADD Vx, Vy: the sum modulo 256 in `V[X]`; VF is the carry unless X = 15, when the result stays (41_alu.md R84; X =
15 as the spec's decision D3 has it). -/
def Obligations.AddSetsCarryThenResult : Prop :=
  (∀ w : Word, fieldF w = 0x8#4 → fieldN w = 0x4#4 → decode w = .instr (.addReg (fieldX w) (fieldY w))) ∧
  ∀ (x y : Reg) (s : State), ∃ t,
    exec (.addReg x y) s = .next t ∧
    (readReg x t).toNat = ((readReg x s).toNat + (readReg y s).toNat) % 256 ∧
    (x ≠ 15 → readReg 15 t = if (readReg x s).toNat + (readReg y s).toNat > 255 then 1#8 else 0#8) ∧
    sameRegsBut [x, 15] s t ∧ t.pc = s.pc + 2#16 ∧ onlyRegsPC s t

/-- SUB Vx, Vy: the difference modulo 256; VF is 1 if and only if the old `V[X]` is strictly greater, unless X = 15,
when the result stays (41_alu.md R85; X = 15 as the spec's decision D3 has it). -/
def Obligations.SubSetsStrictGreaterThenResult : Prop :=
  (∀ w : Word, fieldF w = 0x8#4 → fieldN w = 0x5#4 → decode w = .instr (.subReg (fieldX w) (fieldY w))) ∧
  ∀ (x y : Reg) (s : State), ∃ t,
    exec (.subReg x y) s = .next t ∧
    (readReg x t).toNat = ((readReg x s).toNat + 256 - (readReg y s).toNat) % 256 ∧
    (x ≠ 15 → readReg 15 t = if (readReg x s).toNat > (readReg y s).toNat then 1#8 else 0#8) ∧
    sameRegsBut [x, 15] s t ∧ t.pc = s.pc + 2#16 ∧ onlyRegsPC s t

/-- SUBN Vx, Vy: `V[Y] - V[X]` modulo 256; VF is 1 if and only if the old `V[Y]` is strictly greater, unless X = 15,
when the result stays (41_alu.md R86; X = 15 as the spec's decision D3 has it). -/
def Obligations.SubnSetsStrictGreaterThenResult : Prop :=
  (∀ w : Word, fieldF w = 0x8#4 → fieldN w = 0x7#4 → decode w = .instr (.subnReg (fieldX w) (fieldY w))) ∧
  ∀ (x y : Reg) (s : State), ∃ t,
    exec (.subnReg x y) s = .next t ∧
    (readReg x t).toNat = ((readReg y s).toNat + 256 - (readReg x s).toNat) % 256 ∧
    (x ≠ 15 → readReg 15 t = if (readReg y s).toNat > (readReg x s).toNat then 1#8 else 0#8) ∧
    sameRegsBut [x, 15] s t ∧ t.pc = s.pc + 2#16 ∧ onlyRegsPC s t

/-- SHR and SHL shift `V[X]` by one; VF is the bit shifted out unless X = 15, when the result stays; the value of `V[Y]`
has no part in it (41_alu.md R87, R88; X = 15 as the spec's decision D3 has it). -/
def Obligations.ShiftsMoveTheLostBitToVF : Prop :=
  (∀ w : Word, fieldF w = 0x8#4 → fieldN w = 0x6#4 → decode w = .instr (.shr (fieldX w) (fieldY w))) ∧
  (∀ w : Word, fieldF w = 0x8#4 → fieldN w = 0xE#4 → decode w = .instr (.shl (fieldX w) (fieldY w))) ∧
  ∀ (x y : Reg) (s : State),
    (∃ t, exec (.shr x y) s = .next t ∧
      (readReg x t).toNat = (readReg x s).toNat / 2 ∧
      (x ≠ 15 → (readReg 15 t).toNat = (readReg x s).toNat % 2) ∧
      sameRegsBut [x, 15] s t ∧ t.pc = s.pc + 2#16 ∧ onlyRegsPC s t) ∧
    (∃ t, exec (.shl x y) s = .next t ∧
      (readReg x t).toNat = (readReg x s).toNat * 2 % 256 ∧
      (x ≠ 15 → (readReg 15 t).toNat = (readReg x s).toNat / 128) ∧
      sameRegsBut [x, 15] s t ∧ t.pc = s.pc + 2#16 ∧ onlyRegsPC s t)

/-- RND makes one call of the Random port and writes its answer masked with the byte, for every answer: the next one
supplied, or a free value (41_alu.md R89; the supplied answers and the free value are the model's, log entry 4). -/
def Obligations.RndMasksOneRandomByte : Prop :=
  (∀ w : Word, fieldF w = 0xC#4 → decode w = .instr (.rnd (fieldX w) (fieldKK w))) ∧
  ∀ (x : Reg) (kk : Byte) (s : State), ∃ t r,
    exec (.rnd x kk) s = .next t ∧
    (∀ k, (readReg x t).getLsbD k = (r.getLsbD k && kk.getLsbD k)) ∧
    (∀ b rest, s.randomTape = b :: rest → r = b ∧ t.randomTape = rest) ∧
    (s.randomTape = [] → r = Config.randomByte s.calls.length ∧ t.randomTape = []) ∧
    t.calls = .getRandomByte :: s.calls ∧
    sameRegsBut [x] s t ∧ t.pc = s.pc + 2#16 ∧
    t = { s with v := t.v, pc := t.pc, calls := t.calls, randomTape := t.randomTape } ∧ sameMemory s t

/-! ## Display and input -/

/-- DRW makes one `Draw` call with the reduced coordinates, the N bytes at I and DoWrap; on a nonzero error code the
run stops with VF and PC as they were; else PC advances and VF is set to 1 on a collision and left alone otherwise,
for every answer supplied (42_display_input.md R90, the spec's decisions D12 and D32; log entry 5). -/
def Obligations.DrwFollowsTheRenderersAnswer : Prop :=
  (∀ w : Word, fieldF w = 0xD#4 → decode w = .instr (.drw (fieldX w) (fieldY w) (fieldN w))) ∧
  ∀ (x y : Reg) (n : BitVec 4) (s : State) (a : DrawAnswer) (rest : List DrawAnswer), s.drawTape = a :: rest → ∃ t,
    exec (.drw x y n) s = .next t ∧
    t.drawTape = rest ∧
    (∃ xs ys rowCount, t.calls =
        .draw xs ys ((List.range n.toNat).map fun r => readByte (s.i.toNat + r) s) rowCount s.doWrap :: s.calls ∧
      xs.toNat = (readReg x s).toNat % 64 ∧ ys.toNat = (readReg y s).toNat % 32 ∧ rowCount.toNat = n.toNat) ∧
    (if a.errorCode = 0 then
      t.run = s.run ∧ t.pc = s.pc + 2#16 ∧ readReg 15 t = (if a.collision then 1#8 else readReg 15 s)
    else t.run = .stopped (.error a.errorCode) ∧ t.pc = s.pc ∧ readReg 15 t = readReg 15 s) ∧
    sameRegsBut [15] s t ∧
    t = { s with v := t.v, pc := t.pc, run := t.run, fb := t.fb, drawTape := t.drawTape, calls := t.calls } ∧
    sameMemory s t

/-- Without a supplied answer the reference Renderer answers DRW: the same `Draw` call, no error, and the collision and
the pixels of that Renderer's `Draw` (42_display_input.md R90; 60_exceptions.md R127, the spec's decision D19; log entry
5). -/
def Obligations.DrwWithReferenceRendererCompletes : Prop :=
  ∀ (x y : Reg) (n : BitVec 4) (s : State), s.drawTape = [] → ∃ t,
    exec (.drw x y n) s = .next t ∧
    (∃ xs ys rowCount, t.calls =
        .draw xs ys ((List.range n.toNat).map fun r => readByte (s.i.toNat + r) s) rowCount s.doWrap :: s.calls ∧
      xs.toNat = (readReg x s).toNat % 64 ∧ ys.toNat = (readReg y s).toNat % 32 ∧ rowCount.toNat = n.toNat) ∧
    t.fb = (referenceDraw (spriteX x s) (spriteY y s) (spriteRows n s) s.doWrap s.fb).2 ∧
    readReg 15 t =
      (if (referenceDraw (spriteX x s) (spriteY y s) (spriteRows n s) s.doWrap s.fb).1 then 1#8 else readReg 15 s) ∧
    sameRegsBut [15] s t ∧ t.pc = s.pc + 2#16 ∧
    t = { s with v := t.v, pc := t.pc, fb := t.fb, calls := t.calls } ∧ sameMemory s t

/-- The reference Renderer's `Draw` on the whole display: a pixel is flipped exactly where the sprite, wrapped or
clipped, has a bit set, and the collision says that some flipped pixel was 1 (60_exceptions.md R122, R127, the
spec's decision D19). -/
def Obligations.ReferenceDrawXorsTheSprite : Prop :=
  ∀ (x y : Byte) (rows : List Byte) (wrap : Bool) (fb : Framebuffer),
    x.toNat ≤ 63 → y.toNat ≤ 31 → rows.length ≤ 15 →
    let covered : Nat → Nat → Prop := fun px py =>
      ∃ r c, r < rows.length ∧ c < 8 ∧
        ((rows[r]?).getD 0#8).getLsbD (7 - c) = true ∧
        (if wrap then px = (x.toNat + c) % 64 ∧ py = (y.toNat + r) % 32 else px = x.toNat + c ∧ py = y.toNat + r)
    (∀ px py, px < 64 → py < 32 →
      (covered px py → pixel px py (referenceDraw x y rows wrap fb).2 = !pixel px py fb) ∧
      (¬covered px py → pixel px py (referenceDraw x y rows wrap fb).2 = pixel px py fb)) ∧
    ((referenceDraw x y rows wrap fb).1 = true ↔
      ∃ px py, px < 64 ∧ py < 32 ∧ covered px py ∧ pixel px py fb = true)

/-- SKP and SKNP ask the Input port for the level of the key `V[X]`, unreduced, and skip on its answer, for every
answer; no pending event is consumed (42_display_input.md R91, R92, the spec's decision D7; log entry 4). -/
def Obligations.KeySkipsFollowTheKeyLevel : Prop :=
  (∀ w : Word, fieldF w = 0xE#4 → fieldKK w = 0x9E#8 → decode w = .instr (.skp (fieldX w))) ∧
  (∀ w : Word, fieldF w = 0xE#4 → fieldKK w = 0xA1#8 → decode w = .instr (.sknp (fieldX w))) ∧
  ∀ (x : Reg) (s : State), ∃ pressed t u,
    exec (.skp x) s = .next t ∧ exec (.sknp x) s = .next u ∧
    (∀ b rest, s.keyTape = b :: rest → pressed = b ∧ t.keyTape = rest ∧ u.keyTape = rest) ∧
    (s.keyTape = [] →
      pressed = Config.keyLevel s.calls.length (readReg x s) ∧ t.keyTape = [] ∧ u.keyTape = []) ∧
    t.pc = s.pc + (if pressed then 4#16 else 2#16) ∧ u.pc = s.pc + (if pressed then 2#16 else 4#16) ∧
    t.calls = .isKeyPressed (readReg x s) :: s.calls ∧ u.calls = .isKeyPressed (readReg x s) :: s.calls ∧
    t = { s with pc := t.pc, keyTape := t.keyTape, calls := t.calls } ∧
    u = { s with pc := u.pc, keyTape := u.keyTape, calls := u.calls } ∧
    sameMemory s t ∧ sameMemory s u

/-! ## Timers and the key wait -/

/-- LD Vx, DT (43_timers_keys.md R93); the accumulator is unchanged. -/
def Obligations.LoadDelayTimerIntoRegister : Prop :=
  (∀ w : Word, fieldF w = 0xF#4 → fieldKK w = 0x07#8 → decode w = .instr (.ldVxDT (fieldX w))) ∧
  ∀ (x : Reg) (s : State), ∃ t,
    exec (.ldVxDT x) s = .next t ∧ readReg x t = s.dt ∧
    sameRegsBut [x] s t ∧ t.pc = s.pc + 2#16 ∧ onlyRegsPC s t

/-- LD DT, Vx and LD ST, Vx write their timer and restart its accumulator, not the other's (43_timers_keys.md R95,
R96, the spec's decision D9). -/
def Obligations.TimerWritesRestartTheirAccumulator : Prop :=
  (∀ w : Word, fieldF w = 0xF#4 → fieldKK w = 0x15#8 → decode w = .instr (.ldDTVx (fieldX w))) ∧
  (∀ w : Word, fieldF w = 0xF#4 → fieldKK w = 0x18#8 → decode w = .instr (.ldSTVx (fieldX w))) ∧
  ∀ (x : Reg) (s : State),
    (∃ t, exec (.ldDTVx x) s = .next t ∧ t.dt = readReg x s ∧ t.accDT = 0 ∧ t.pc = s.pc + 2#16 ∧
      t = { s with pc := t.pc, dt := t.dt, accDT := t.accDT } ∧ sameMemory s t) ∧
    (∃ t, exec (.ldSTVx x) s = .next t ∧ t.st = readReg x s ∧ t.accST = 0 ∧ t.pc = s.pc + 2#16 ∧
      t = { s with pc := t.pc, st := t.st, accST := t.accST } ∧ sameMemory s t)

/-- LD Vx, K suspends the core and records the register; nothing else changes, so PC stays at it and `V[X]` keeps its
value (43_timers_keys.md R94). -/
def Obligations.LoadKeySuspends : Prop :=
  (∀ w : Word, fieldF w = 0xF#4 → fieldKK w = 0x0A#8 → decode w = .instr (.ldVxK (fieldX w))) ∧
  ∀ (x : Reg) (s : State), ∃ t,
    exec (.ldVxK x) s = .next t ∧ t.suspended = true ∧ t.waitReg = x ∧ t.pc = s.pc ∧ stopSignal t = stopSignal s ∧
    t = { s with suspended := t.suspended, waitReg := t.waitReg } ∧ sameMemory s t

/-- Both timers of a Tick go down by one exactly when their accumulator reaches a period, never below zero, and the
period is then taken off the accumulator (60_exceptions.md R119, the spec's decision D8; time units: log entry 2). -/
def Obligations.TimersDecrementOncePerPeriod : Prop :=
  ∀ (d : Time) (s : State),
    (if s.accDT + d < Config.timerPeriod then
      (timerUpdate d s).accDT = s.accDT + d ∧ (timerUpdate d s).dt = s.dt
    else
      (timerUpdate d s).accDT + Config.timerPeriod = s.accDT + d ∧ (timerUpdate d s).dt.toNat = s.dt.toNat - 1) ∧
    (if s.accST + d < Config.timerPeriod then
      (timerUpdate d s).accST = s.accST + d ∧ (timerUpdate d s).st = s.st
    else
      (timerUpdate d s).accST + Config.timerPeriod = s.accST + d ∧ (timerUpdate d s).st.toNat = s.st.toNat - 1) ∧
    timerUpdate d s =
      { s with
        dt := (timerUpdate d s).dt, accDT := (timerUpdate d s).accDT
        st := (timerUpdate d s).st, accST := (timerUpdate d s).accST }

/-- No time is lost over any sequence of timer updates in which the delay timer has not reached zero: the time that
went by is one period per decrement and the rest in the accumulator (60_exceptions.md R119, "drift does not
accumulate"; time units: log entry 2). -/
def Obligations.DelayTimerDoesNotDrift : Prop :=
  ∀ (ds : List Time) (s : State),
    (ds.foldl (fun u d => timerUpdate d u) s).dt ≠ 0#8 →
    (ds.foldl (fun u d => timerUpdate d u) s).dt.toNat ≤ s.dt.toNat ∧
    s.accDT + ds.sum =
      (ds.foldl (fun u d => timerUpdate d u) s).accDT +
        Config.timerPeriod * (s.dt.toNat - (ds.foldl (fun u d => timerUpdate d u) s).dt.toNat)

/-- A Tick of a suspended core that meets neither a KeyDown nor a Quit updates the timers, consumes the events and
does nothing else (60_exceptions.md R107, R116; a None is ignored by the spec's decision D16; script: log entry 3;
pending events before new ones: log entry 10). -/
def Obligations.WaitGoesOnWithoutKey : Prop :=
  ∀ (s : State) (d : Time) (es : List InputEvent),
    hostAction s = .tick d es → s.run = .active → s.suspended = true →
    (∀ e ∈ s.pending ++ es, e = .none) →
    step s = .next { timerUpdate d (takeAction s) with pending := [] }

/-- The first KeyDown of a drain, pending before the Tick or new with it, ends the wait: its key goes into the waiting
register, PC advances, and the events after it are discarded (60_exceptions.md R106, R117; the spec's decisions D14
and D29; record of calls: log entry 6; pending events before new ones: log entry 10). -/
def Obligations.FirstKeyDownEndsTheWait : Prop :=
  ∀ (s : State) (d : Time) (es before after : List InputEvent) (k : Key),
    s.suspended = true → (∀ e ∈ before, e = .none) → (∀ e ∈ after, e ≠ .quit) →
    s.pending ++ es = before ++ .keyDown k :: after → ∃ t,
      drained d es s = (false, t) ∧
      (readReg s.waitReg t).toNat = k.val ∧ sameRegsBut [s.waitReg] s t ∧
      t.suspended = false ∧ t.pc = s.pc + 2#16 ∧ t.pending = [] ∧ t.calls = .getKey :: s.calls ∧
      t =
        { timerUpdate d s with
          v := t.v, pc := t.pc, suspended := t.suspended, pending := t.pending, calls := t.calls }

/-- A Quit stops the Tick at once: no instruction executes, the events after it stay pending, and a resume that came
before it in the same drain has happened, and nothing else but the timer update (60_exceptions.md R106, R112, R118,
the spec's decision D15; script: log entry 3; record of calls: log entry 6; pending events before new ones, and those
left over: log entry 10). -/
def Obligations.QuitStopsTheTickBeforeExecution : Prop :=
  ∀ (s : State) (d : Time) (es before after : List InputEvent),
    hostAction s = .tick d es → s.run = .active →
    s.pending ++ es = before ++ .quit :: after → (∀ e ∈ before, e ≠ .quit) → ∃ t,
      step s = .next t ∧ t.run = .stopped .quit ∧ stopSignal t = true ∧ t.pending = after ∧
      ((∀ k, .keyDown k ∉ before) ∨ s.suspended = false →
        t = { timerUpdate d (takeAction s) with pending := after, run := .stopped .quit }) ∧
      (∀ k rest pre, s.suspended = true → before = pre ++ .keyDown k :: rest → (∀ e ∈ pre, e = .none) →
        (readReg s.waitReg t).toNat = k.val ∧ sameRegsBut [s.waitReg] s t ∧
        t.suspended = false ∧ t.pc = s.pc + 2#16 ∧ t.calls = .getKey :: s.calls ∧
        t =
          { timerUpdate d (takeAction s) with
            v := t.v, pc := t.pc, suspended := t.suspended, calls := t.calls
            pending := after, run := .stopped .quit })

/-! ## Index register and memory -/

/-- LD I, ADD I and LD F write I and nothing else but PC; no flag is written (44_index_memory.md R97, R98, R99,
the spec's decisions D6, D24 and D34). -/
def Obligations.IndexWritesLeaveFlagsAlone : Prop :=
  (∀ w : Word, fieldF w = 0xA#4 → decode w = .instr (.ldI (fieldNNN w))) ∧
  (∀ w : Word, fieldF w = 0xF#4 → fieldKK w = 0x1E#8 → decode w = .instr (.addI (fieldX w))) ∧
  (∀ w : Word, fieldF w = 0xF#4 → fieldKK w = 0x29#8 → decode w = .instr (.ldF (fieldX w))) ∧
  (∀ (nnn : Addr12) (s : State), ∃ t,
    exec (.ldI nnn) s = .next t ∧ t.i.toNat = nnn.toNat ∧ t.pc = s.pc + 2#16 ∧ onlyIndexPC s t) ∧
  ∀ (x : Reg) (s : State),
    (∃ t, exec (.addI x) s = .next t ∧
      t.i.toNat = (s.i.toNat + (readReg x s).toNat) % 0x10000 ∧ t.pc = s.pc + 2#16 ∧ onlyIndexPC s t) ∧
    (∃ t, exec (.ldF x) s = .next t ∧
      t.i.toNat = 5 * (readReg x s).toNat ∧ t.pc = s.pc + 2#16 ∧ onlyIndexPC s t)

/-- LD B writes the three decimal digits of `V[X]` at I, I+1 and I+2, addresses reduced, and no other byte
(44_index_memory.md R100). -/
def Obligations.LoadBcdStoresThreeDigits : Prop :=
  (∀ w : Word, fieldF w = 0xF#4 → fieldKK w = 0x33#8 → decode w = .instr (.ldB (fieldX w))) ∧
  ∀ (x : Reg) (s : State), ∃ t,
    exec (.ldB x) s = .next t ∧
    (s.mem.wf →
      (readByte s.i.toNat t).toNat = (readReg x s).toNat / 100 ∧
      (readByte (s.i.toNat + 1) t).toNat = (readReg x s).toNat / 10 % 10 ∧
      (readByte (s.i.toNat + 2) t).toNat = (readReg x s).toNat % 10) ∧
    sameMemoryOutside s.i.toNat 3 s t ∧ t.pc = s.pc + 2#16 ∧ onlyMemoryPC s t

/-- LD [I], Vx writes V0 to Vx inclusive at I, I+1, ..., addresses reduced, and no other byte; I is unchanged
(44_index_memory.md R101). -/
def Obligations.StoreRegistersWritesABlock : Prop :=
  (∀ w : Word, fieldF w = 0xF#4 → fieldKK w = 0x55#8 → decode w = .instr (.storeRegs (fieldX w))) ∧
  ∀ (x : Reg) (s : State), ∃ t,
    exec (.storeRegs x) s = .next t ∧
    (s.mem.wf → ∀ r : Reg, r.val ≤ x.val → readByte (s.i.toNat + r.val) t = readReg r s) ∧
    sameMemoryOutside s.i.toNat (x.val + 1) s t ∧ t.pc = s.pc + 2#16 ∧ onlyMemoryPC s t

/-- LD Vx, [I] loads V0 to Vx inclusive from I, I+1, ..., addresses reduced, and no other register; I is unchanged
(44_index_memory.md R102). -/
def Obligations.LoadRegistersReadsABlock : Prop :=
  (∀ w : Word, fieldF w = 0xF#4 → fieldKK w = 0x65#8 → decode w = .instr (.loadRegs (fieldX w))) ∧
  ∀ (x : Reg) (s : State), ∃ t,
    exec (.loadRegs x) s = .next t ∧
    (∀ r : Reg, readReg r t = if r.val ≤ x.val then readByte ((s.i.toNat + r.val) % 0x1000) s else readReg r s) ∧
    t.pc = s.pc + 2#16 ∧ onlyRegsPC s t

/-- A block stored and then loaded with the same X and I restores the registers (95_test_vectors.md E6,
44_index_memory.md R102). -/
def Obligations.StoreThenLoadRestoresRegisters : Prop :=
  ∀ (x : Reg) (s : State) (f : Reg → Byte), s.mem.wf → ∃ t u,
    exec (.storeRegs x) s = .next t ∧
    exec (.loadRegs x) { t with v := Vector.ofFn f } = .next u ∧
    (∀ r : Reg, readReg r u = if r.val ≤ x.val then readReg r s else f r) ∧ u.i = s.i

/-! ## The whole machine -/

/-- A failing instruction has changed no state, or on `Error` nothing but what the Renderer call changes, and PC keeps
its address (30_encoding.md R66, the spec's decisions D12 and D22). -/
def Obligations.FailingInstructionChangesNoState : Prop :=
  ∀ (i : Instr) (s t : State) (r : StopReason), s.run = .active → exec i s = .next t → t.run = .stopped r →
    t.pc = s.pc ∧
    (match r with
      | .error _ => t = { s with run := t.run, fb := t.fb, drawTape := t.drawTape, calls := t.calls }
      | _ => t = { s with run := t.run })

/-- Which instructions write which element of the state: I (10_state.md R17), the stack and SP (R20, R21), the timers
and their accumulators (R23 to R25), the suspend state (R26); and what stands for a port, the instructions that call
that port only (60_exceptions.md R122 to R124, R129; log entries 4 to 6). No instruction writes DoWrap (R27), the
pending events, the script or the host errors. -/
def Obligations.EachElementHasItsWriters : Prop :=
  ∀ (i : Instr) (s t : State), exec i s = .next t →
    (t.i ≠ s.i → (∃ a, i = .ldI a) ∨ (∃ x, i = .addI x) ∨ ∃ x, i = .ldF x) ∧
    (t.stack ≠ s.stack → ∃ a, i = .call a) ∧
    (t.sp ≠ s.sp → i = .ret ∨ ∃ a, i = .call a) ∧
    (t.dt ≠ s.dt ∨ t.accDT ≠ s.accDT → ∃ x, i = .ldDTVx x) ∧
    (t.st ≠ s.st ∨ t.accST ≠ s.accST → ∃ x, i = .ldSTVx x) ∧
    (t.suspended ≠ s.suspended ∨ t.waitReg ≠ s.waitReg → ∃ x, i = .ldVxK x) ∧
    (t.fb ≠ s.fb → i = .cls ∨ ∃ x y n, i = .drw x y n) ∧
    (t.randomTape ≠ s.randomTape → ∃ x kk, i = .rnd x kk) ∧
    (t.keyTape ≠ s.keyTape → ∃ x, i = .skp x ∨ i = .sknp x) ∧
    (t.drawTape ≠ s.drawTape → ∃ x y n, i = .drw x y n) ∧
    (t.calls ≠ s.calls → callsPort i = true) ∧
    t.doWrap = s.doWrap ∧ t.pending = s.pending ∧ t.script = s.script ∧ t.hostErrors = s.hostErrors

/-- No step reads the sound timer or its accumulator into anything but themselves (10_state.md R24). -/
def Obligations.SoundTimerInfluencesNothingElse : Prop :=
  ∀ (s : State) (st : Byte) (acc : Time),
    (∀ t, step s = .next t → ∃ st' acc',
      step { s with st := st, accST := acc } = .next { t with st := st', accST := acc' }) ∧
    (∀ r, step s = .refused r → step { s with st := st, accST := acc } = .refused r)

/-- DoWrap reaches no instruction but DRW (10_state.md R27). -/
def Obligations.DoWrapInfluencesOnlyDrw : Prop :=
  ∀ (i : Instr) (s t : State) (b : Bool),
    (∀ x y n, i ≠ .drw x y n) → exec i s = .next t → exec i { s with doWrap := b } = .next { t with doWrap := b }

/-! ## Reset and the Host -/

/-- A hard reset, from any state, gives every element of the core its reset value and makes one `ClearScreen` call;
DoWrap is unchanged (70_reset_and_hazards.md R135). The cold start gives the same values (R136). The spec's decisions
D13, D20 and D26; script: log entry 3; pixels: log entry 5; record of calls: log entry 6; pending events kept: log
entry 10. -/
def Obligations.HardResetGivesColdStartValues : Prop :=
  ∀ (s : State) (rest : List HostAction), s.script = .hardReset :: rest → ∃ t,
    step s = .next t ∧
    (∀ r, readReg r t = 0#8) ∧ t.i = 0#16 ∧ t.pc = 0x200#16 ∧ t.sp = 0xFF#8 ∧
    (∀ j : Nat, j < 16 → t.stack[j]? = some 0#16) ∧
    t.dt = 0#8 ∧ t.st = 0#8 ∧ t.accDT = 0 ∧ t.accST = 0 ∧
    t.suspended = false ∧ t.waitReg = 0 ∧ t.run = .active ∧
    (∀ a, a < 0x50 → some (readByte a t) = font[a]?) ∧
    (∀ a, 0x50 ≤ a → a < 0x1000 → readByte a t = 0#8) ∧
    t.calls = .clearScreen :: s.calls ∧ (∀ px py, pixel px py t.fb = false) ∧
    t.doWrap = s.doWrap ∧
    t =
      { State.reset with
        doWrap := s.doWrap, pending := s.pending, script := rest, randomTape := s.randomTape
        keyTape := s.keyTape, drawTape := s.drawTape, calls := t.calls, hostErrors := s.hostErrors }

/-- A Tick after a reset with no program stops with `NotImplemented`, word 0, at 0x200 (70_reset_and_hazards.md R138,
which the spec derives; pending events kept by the reset: log entry 10). -/
def Obligations.TickWithoutProgramStops : Prop :=
  ∀ (s : State) (d : Time) (es : List InputEvent), (∀ e ∈ s.pending ++ es, e ≠ .quit) → ∃ t,
    tick d es (hardReset s) = .next t ∧ t.run = .stopped (.notImplemented 0x0000#16) ∧ t.pc = 0x200#16

/-- `LoadProgram` in an active machine copies its bytes to 0x200 and changes nothing else; more than 3584 bytes have
no effect, and a host error is recorded (60_exceptions.md R110, R125, the spec's decision D21; script: log entry 3;
record of the host error: log entry 7; a load of any active machine, after its first Tick too: log entry 9). -/
def Obligations.LoadProgramCopiesOrRecordsAnError : Prop :=
  ∀ (s : State) (bytes : List Byte) (rest : List HostAction),
    s.script = .loadProgram bytes :: rest → s.run = .active → ∃ t,
      step s = .next t ∧
      (if bytes.length ≤ 3584 then
        (s.mem.wf → ∀ k : Nat, k < bytes.length → some (readByte (0x200 + k) t) = bytes[k]?) ∧
        sameMemoryOutside 0x200 bytes.length s t ∧
        t = { s with mem := t.mem, script := rest }
      else t = { s with script := rest, hostErrors := .programTooLong bytes.length :: s.hostErrors })

/-- The Host's setting of `DoWrap` in an active machine gives it that value, and nothing else changes (10_state.md R27;
60_exceptions.md R110, R126, the spec's decision D20; script: log entry 3). -/
def Obligations.HostSetsDoWrapOnly : Prop :=
  ∀ (s : State) (wrap : Bool) (rest : List HostAction),
    s.script = .setDoWrap wrap :: rest → s.run = .active → ∃ t,
      step s = .next t ∧ t.doWrap = wrap ∧ t = { s with doWrap := t.doWrap, script := rest } ∧ sameMemory s t
end

