-- ==== Sys2Proof/Laws/Encoding.lean ====
section
/-!
SUPPORT. The bits and the fields of the words the encoder builds, format by format (30_encoding.md R51, R52).
-/
namespace Sys2Proof

theorem getLsbD_ofReg (x : Reg) (k : Nat) : (BitVec.ofFin (w := 4) x).getLsbD k = x.val.testBit k := rfl

/-- The bits of a word of format XKK. -/
theorem getLsbD_wordXKK (f : BitVec 4) (x : Reg) (kk : Byte) (k : Nat) :
    (wordXKK f x kk).getLsbD k =
      if k < 8 then kk.getLsbD k else if k < 12 then x.val.testBit (k - 8) else f.getLsbD (k - 12) := by
  show BitVec.getLsbD (w := 4 + 4 + 8) (f ++ BitVec.ofFin (w := 4) x ++ kk) k = _
  rw [BitVec.getLsbD_append, BitVec.getLsbD_append]
  by_cases h8 : k < 8
  · simp [h8]
  · by_cases h12 : k < 12
    · simp [h8, h12, show k - 8 < 4 by omega, BitVec.getLsbD]
    · simp [h8, h12, show ¬k - 8 < 4 by omega, show k - 8 - 4 = k - 12 by omega]

/-- The bits of a word of format XYN. -/
theorem getLsbD_wordXYN (f : BitVec 4) (x y : Reg) (n : BitVec 4) (k : Nat) :
    (wordXYN f x y n).getLsbD k =
      if k < 4 then n.getLsbD k
      else if k < 8 then y.val.testBit (k - 4)
      else if k < 12 then x.val.testBit (k - 8) else f.getLsbD (k - 12) := by
  show BitVec.getLsbD (w := 4 + 4 + 4 + 4) (f ++ BitVec.ofFin (w := 4) x ++ BitVec.ofFin (w := 4) y ++ n) k = _
  rw [BitVec.getLsbD_append, BitVec.getLsbD_append, BitVec.getLsbD_append]
  by_cases h4 : k < 4
  · simp [h4]
  · by_cases h8 : k < 8
    · simp [h4, h8, show k - 4 < 4 by omega, BitVec.getLsbD]
    · by_cases h12 : k < 12
      · simp [h4, h8, h12, show ¬k - 4 < 4 by omega, show k - 4 - 4 = k - 8 by omega, show k - 8 < 4 by omega,
          BitVec.getLsbD]
      · simp [h4, h8, h12, show ¬k - 4 < 4 by omega, show k - 4 - 4 = k - 8 by omega, show ¬k - 8 < 4 by omega,
          show k - 8 - 4 = k - 12 by omega]

/-- The bits of a word of format NNN. -/
theorem getLsbD_wordNNN (f : BitVec 4) (a : Addr12) (k : Nat) :
    (wordNNN f a).getLsbD k = if k < 12 then a.getLsbD k else f.getLsbD (k - 12) := by
  show BitVec.getLsbD (w := 4 + 12) (f ++ a) k = _
  rw [BitVec.getLsbD_append]

@[simp] theorem fieldF_wordXKK (f : BitVec 4) (x : Reg) (kk : Byte) : fieldF (wordXKK f x kk) = f := by
  apply BitVec.eq_of_getLsbD_eq
  intro k hk
  simp [fieldF, getLsbD_wordXKK, hk, show ¬12 + k < 8 by omega]

@[simp] theorem fieldX_wordXKK (f : BitVec 4) (x : Reg) (kk : Byte) : fieldX (wordXKK f x kk) = x := by
  have h : (wordXKK f x kk).extractLsb' 8 4 = BitVec.ofFin (w := 4) x := by
    apply BitVec.eq_of_getLsbD_eq
    intro k hk
    rw [BitVec.getLsbD_extractLsb', getLsbD_wordXKK, getLsbD_ofReg]
    simp [hk, show 8 + k < 12 by omega]
  rw [fieldX, h]

@[simp] theorem fieldKK_wordXKK (f : BitVec 4) (x : Reg) (kk : Byte) : fieldKK (wordXKK f x kk) = kk := by
  apply BitVec.eq_of_getLsbD_eq
  intro k hk
  simp [fieldKK, getLsbD_wordXKK, hk]

@[simp] theorem fieldF_wordXYN (f : BitVec 4) (x y : Reg) (n : BitVec 4) : fieldF (wordXYN f x y n) = f := by
  apply BitVec.eq_of_getLsbD_eq
  intro k hk
  simp [fieldF, getLsbD_wordXYN, hk, show ¬12 + k < 8 by omega, show ¬12 + k < 4 by omega]

@[simp] theorem fieldX_wordXYN (f : BitVec 4) (x y : Reg) (n : BitVec 4) : fieldX (wordXYN f x y n) = x := by
  have h : (wordXYN f x y n).extractLsb' 8 4 = BitVec.ofFin (w := 4) x := by
    apply BitVec.eq_of_getLsbD_eq
    intro k hk
    rw [BitVec.getLsbD_extractLsb', getLsbD_wordXYN, getLsbD_ofReg]
    simp [hk, show 8 + k < 12 by omega, show ¬8 + k < 4 by omega]
  rw [fieldX, h]

@[simp] theorem fieldY_wordXYN (f : BitVec 4) (x y : Reg) (n : BitVec 4) : fieldY (wordXYN f x y n) = y := by
  have h : (wordXYN f x y n).extractLsb' 4 4 = BitVec.ofFin (w := 4) y := by
    apply BitVec.eq_of_getLsbD_eq
    intro k hk
    rw [BitVec.getLsbD_extractLsb', getLsbD_wordXYN, getLsbD_ofReg]
    simp [hk, show 4 + k < 8 by omega]
  rw [fieldY, h]

@[simp] theorem fieldN_wordXYN (f : BitVec 4) (x y : Reg) (n : BitVec 4) : fieldN (wordXYN f x y n) = n := by
  apply BitVec.eq_of_getLsbD_eq
  intro k hk
  simp [fieldN, getLsbD_wordXYN, hk]

@[simp] theorem fieldF_wordNNN (f : BitVec 4) (a : Addr12) : fieldF (wordNNN f a) = f := by
  apply BitVec.eq_of_getLsbD_eq
  intro k hk
  simp [fieldF, getLsbD_wordNNN, hk]

@[simp] theorem fieldNNN_wordNNN (f : BitVec 4) (a : Addr12) : fieldNNN (wordNNN f a) = a := by
  apply BitVec.eq_of_getLsbD_eq
  intro k hk
  simp [fieldNNN, getLsbD_wordNNN, hk]

end Sys2Proof
end

