-- ==== Sys2Proof/Laws/Memory.lean ====
section
/-!
SUPPORT. The laws of memory: the canonical form is kept, a read after a write gives the byte written, and a write leaves
every other byte alone.
-/
namespace Sys2Proof.Machine

theorem reduceAddr_lt (a : Nat) : reduceAddr a < Config.memSize := Nat.mod_lt _ (by decide)

/-- The canonical form of a memory of one entry or more, taken apart. -/
theorem wf_cons {b : Nat} {w : Byte} {m : Memory} :
    Memory.wf ((b, w) :: m) ↔
      (∀ c ∈ m, b < c.1) ∧ b < Config.memSize ∧ w ≠ unlistedByte b ∧ Memory.wf m := by
  simp only [Memory.wf, List.pairwise_cons, List.forall_mem_cons]
  tauto

theorem wf_nil : Memory.wf [] := by simp [Memory.wf]

/-- An address below every entry reads as unlisted. -/
theorem memLookup_of_below {a : Nat} : ∀ {m : Memory}, (∀ c ∈ m, a < c.1) → memLookup a m = unlistedByte a
  | [], _ => rfl
  | (b, w) :: m, h => by
    have hb : a < b := h (b, w) (by simp)
    simp only [memLookup, Nat.ne_of_lt hb, if_false]
    exact memLookup_of_below fun c hc => h c (by simp [hc])

theorem memLookup_memCell_append_same (a : Nat) (u : Byte) {m : Memory} (h : ∀ c ∈ m, a < c.1) :
    memLookup a (memCell a u ++ m) = u := by
  unfold memCell
  split
  · rename_i hu
    simpa [hu] using memLookup_of_below h
  · simp [memLookup]

theorem memLookup_memCell_append_ne {a c : Nat} (u : Byte) (m : Memory) (h : c ≠ a) :
    memLookup c (memCell a u ++ m) = memLookup c m := by
  unfold memCell
  split <;> simp [memLookup, h]

/-- A read after a write at the same place gives the byte written. -/
theorem memLookup_memInsert_same (a : Nat) (u : Byte) : ∀ {m : Memory}, m.wf → memLookup a (memInsert a u m) = u
  | [], _ => by simpa [memInsert] using memLookup_memCell_append_same a u (m := []) (by simp)
  | (b, w) :: m, h => by
    obtain ⟨hlt, -, -, hm⟩ := wf_cons.1 h
    unfold memInsert
    split
    · rename_i hab
      refine memLookup_memCell_append_same a u fun c hc => ?_
      rcases List.mem_cons.1 hc with rfl | hc
      · exact hab
      · exact hab.trans (hlt c hc)
    · split
      · rename_i hab
        subst hab
        exact memLookup_memCell_append_same a u hlt
      · rename_i hab
        simp only [memLookup, hab, if_false]
        exact memLookup_memInsert_same a u hm

/-- A write leaves every other place alone. -/
theorem memLookup_memInsert_ne {a c : Nat} (u : Byte) (h : c ≠ a) :
    ∀ m : Memory, memLookup c (memInsert a u m) = memLookup c m
  | [] => by simpa [memInsert] using memLookup_memCell_append_ne u [] h
  | (b, w) :: m => by
    unfold memInsert
    split
    · exact memLookup_memCell_append_ne u _ h
    · split
      · rename_i hab
        subst hab
        simp [memLookup_memCell_append_ne u m h, memLookup, h]
      · simp only [memLookup, memLookup_memInsert_ne u h m]

/-- The entries after a write are old ones or the one written. -/
theorem mem_memInsert {a : Nat} {u : Byte} {c : Host.Cell} :
    ∀ {m : Memory}, c ∈ memInsert a u m → c ∈ m ∨ (c = (a, u) ∧ u ≠ unlistedByte a)
  | [], h => by
    unfold memInsert memCell at h
    split at h <;> simp_all
  | (b, w) :: m, h => by
    unfold memInsert memCell at h
    split at h
    · split at h
      · exact .inl (by simpa using h)
      · simp only [List.cons_append, List.nil_append, List.mem_cons] at h
        rcases h with rfl | rfl | h <;> simp_all
    · split at h
      · split at h
        · exact .inl (List.mem_cons_of_mem _ (by simpa using h))
        · simp only [List.cons_append, List.nil_append, List.mem_cons] at h
          rcases h with rfl | h <;> simp_all
      · rcases List.mem_cons.1 h with rfl | h
        · simp
        · rcases mem_memInsert h with h | h
          · exact .inl (by simp [h])
          · exact .inr h

theorem wf_memCell_append {a : Nat} (u : Byte) {m : Memory} (ha : a < Config.memSize) (hm : m.wf)
    (h : ∀ c ∈ m, a < c.1) : Memory.wf (memCell a u ++ m) := by
  unfold memCell
  split
  · simpa using hm
  · rename_i hu
    exact wf_cons.2 ⟨h, ha, hu, hm⟩

/-- A write keeps the canonical form. -/
theorem wf_memInsert {a : Nat} (u : Byte) (ha : a < Config.memSize) : ∀ {m : Memory}, m.wf → (memInsert a u m).wf
  | [], _ => by simpa [memInsert] using wf_memCell_append u ha wf_nil (by simp)
  | (b, w) :: m, h => by
    obtain ⟨hlt, hb, hw, hm⟩ := wf_cons.1 h
    unfold memInsert
    split
    · rename_i hab
      refine wf_memCell_append u ha h fun c hc => ?_
      rcases List.mem_cons.1 hc with rfl | hc
      · exact hab
      · exact hab.trans (hlt c hc)
    · split
      · rename_i hab
        subst hab
        exact wf_memCell_append u ha hm hlt
      · rename_i h1 h2
        refine wf_cons.2 ⟨fun c hc => ?_, hb, hw, wf_memInsert u ha hm⟩
        rcases mem_memInsert hc with hc | ⟨rfl, -⟩
        · exact hlt c hc
        · simp only
          omega

/-! ## The same of the operations on a state -/

theorem writeByte_wf (a : Nat) (u : Byte) {s : State} (h : s.mem.wf) : (writeByte a u s).mem.wf :=
  wf_memInsert u (reduceAddr_lt a) h

theorem readByte_writeByte_same {a b : Nat} (u : Byte) {s : State} (h : s.mem.wf) (hab : reduceAddr b = reduceAddr a) :
    readByte b (writeByte a u s) = u := by
  simpa [readByte, writeByte, hab] using memLookup_memInsert_same (reduceAddr a) u h

theorem readByte_writeByte_ne {a b : Nat} (u : Byte) (s : State) (hab : reduceAddr b ≠ reduceAddr a) :
    readByte b (writeByte a u s) = readByte b s :=
  memLookup_memInsert_ne u hab s.mem

/-- Writing bytes changes memory and nothing else. -/
theorem writeBytes_eq : ∀ (us : List Byte) (a : Nat) (s : State),
    writeBytes a us s = { s with mem := (writeBytes a us s).mem }
  | [], _, _ => rfl
  | u :: us, a, s => by
    rw [writeBytes, writeBytes_eq us (a + 1) (writeByte a u s)]
    rfl

@[simp] theorem writeBytes_v (us : List Byte) (a : Nat) (s : State) : (writeBytes a us s).v = s.v := by
  rw [writeBytes_eq]
@[simp] theorem writeBytes_i (us : List Byte) (a : Nat) (s : State) : (writeBytes a us s).i = s.i := by
  rw [writeBytes_eq]
@[simp] theorem writeBytes_pc (us : List Byte) (a : Nat) (s : State) : (writeBytes a us s).pc = s.pc := by
  rw [writeBytes_eq]
@[simp] theorem writeBytes_sp (us : List Byte) (a : Nat) (s : State) : (writeBytes a us s).sp = s.sp := by
  rw [writeBytes_eq]
@[simp] theorem writeBytes_stack (us : List Byte) (a : Nat) (s : State) : (writeBytes a us s).stack = s.stack := by
  rw [writeBytes_eq]
@[simp] theorem writeBytes_dt (us : List Byte) (a : Nat) (s : State) : (writeBytes a us s).dt = s.dt := by
  rw [writeBytes_eq]
@[simp] theorem writeBytes_st (us : List Byte) (a : Nat) (s : State) : (writeBytes a us s).st = s.st := by
  rw [writeBytes_eq]
@[simp] theorem writeBytes_accDT (us : List Byte) (a : Nat) (s : State) : (writeBytes a us s).accDT = s.accDT := by
  rw [writeBytes_eq]
@[simp] theorem writeBytes_accST (us : List Byte) (a : Nat) (s : State) : (writeBytes a us s).accST = s.accST := by
  rw [writeBytes_eq]
@[simp] theorem writeBytes_suspended (us : List Byte) (a : Nat) (s : State) : (writeBytes a us s).suspended = s.suspended := by
  rw [writeBytes_eq]
@[simp] theorem writeBytes_waitReg (us : List Byte) (a : Nat) (s : State) : (writeBytes a us s).waitReg = s.waitReg := by
  rw [writeBytes_eq]
@[simp] theorem writeBytes_doWrap (us : List Byte) (a : Nat) (s : State) : (writeBytes a us s).doWrap = s.doWrap := by
  rw [writeBytes_eq]
@[simp] theorem writeBytes_run (us : List Byte) (a : Nat) (s : State) : (writeBytes a us s).run = s.run := by
  rw [writeBytes_eq]
@[simp] theorem writeBytes_pending (us : List Byte) (a : Nat) (s : State) : (writeBytes a us s).pending = s.pending := by
  rw [writeBytes_eq]
@[simp] theorem writeBytes_fb (us : List Byte) (a : Nat) (s : State) : (writeBytes a us s).fb = s.fb := by
  rw [writeBytes_eq]
@[simp] theorem writeBytes_script (us : List Byte) (a : Nat) (s : State) : (writeBytes a us s).script = s.script := by
  rw [writeBytes_eq]
@[simp] theorem writeBytes_randomTape (us : List Byte) (a : Nat) (s : State) : (writeBytes a us s).randomTape = s.randomTape := by
  rw [writeBytes_eq]
@[simp] theorem writeBytes_keyTape (us : List Byte) (a : Nat) (s : State) : (writeBytes a us s).keyTape = s.keyTape := by
  rw [writeBytes_eq]
@[simp] theorem writeBytes_drawTape (us : List Byte) (a : Nat) (s : State) : (writeBytes a us s).drawTape = s.drawTape := by
  rw [writeBytes_eq]
@[simp] theorem writeBytes_calls (us : List Byte) (a : Nat) (s : State) : (writeBytes a us s).calls = s.calls := by
  rw [writeBytes_eq]
@[simp] theorem writeBytes_hostErrors (us : List Byte) (a : Nat) (s : State) : (writeBytes a us s).hostErrors = s.hostErrors := by
  rw [writeBytes_eq]

theorem writeBytes_wf : ∀ (us : List Byte) (a : Nat) {s : State}, s.mem.wf → (writeBytes a us s).mem.wf
  | [], _, _, h => h
  | u :: us, a, _, h => writeBytes_wf us (a + 1) (writeByte_wf a u h)

/-- A byte outside the run of addresses written reads as before. -/
theorem readByte_writeBytes_outside {b : Nat} : ∀ (us : List Byte) (a : Nat) (s : State),
    (∀ k < us.length, reduceAddr b ≠ reduceAddr (a + k)) → readByte b (writeBytes a us s) = readByte b s
  | [], _, _, _ => rfl
  | u :: us, a, s, h => by
    rw [writeBytes, readByte_writeBytes_outside us (a + 1) _ fun k hk => ?_,
      readByte_writeByte_ne u s (by simpa using h 0 (by simp))]
    simpa [Nat.add_assoc, Nat.add_comm 1 k] using h (k + 1) (by simpa using hk)

/-- Each byte written reads back, as long as the run of addresses does not lap itself. -/
theorem readByte_writeBytes_at {k : Nat} : ∀ (us : List Byte) (a : Nat) {s : State}, s.mem.wf →
    us.length ≤ Config.memSize → (hk : k < us.length) → readByte (a + k) (writeBytes a us s) = us[k]
  | [], _, _, _, _, hk => absurd hk (by simp)
  | u :: us, a, s, h, hl, hk => by
    rw [writeBytes]
    cases k with
    | zero =>
      rw [readByte_writeBytes_outside us (a + 1) _ fun k hk' => ?_]
      · simpa using readByte_writeByte_same u h rfl
      · simp only [reduceAddr, Config.memSize, List.length_cons] at *
        omega
    | succ k =>
      have := readByte_writeBytes_at (k := k) us (a + 1) (writeByte_wf a u h)
        (by simp only [List.length_cons] at hl; omega) (by simpa using hk)
      simpa [Nat.add_assoc, Nat.add_comm 1 k] using this

@[simp] theorem length_readBytes (a n : Nat) (s : State) : (readBytes a n s).length = n := by simp [readBytes]

end Sys2Proof.Machine
end

