-- ==== Sys2Proof/Laws/State.lean ====
section
/-!
SUPPORT. One lemma per field of State per operation: what the operation leaves in the field. All are true by unfolding,
so that no later proof has to.
-/
namespace Sys2Proof.Machine

@[simp] theorem writeReg_v (r : Reg) (u : Byte) (s : State) : (writeReg r u s).v = s.v.set r.val u := rfl
@[simp] theorem writeReg_i (r : Reg) (u : Byte) (s : State) : (writeReg r u s).i = s.i := rfl
@[simp] theorem writeReg_pc (r : Reg) (u : Byte) (s : State) : (writeReg r u s).pc = s.pc := rfl
@[simp] theorem writeReg_sp (r : Reg) (u : Byte) (s : State) : (writeReg r u s).sp = s.sp := rfl
@[simp] theorem writeReg_stack (r : Reg) (u : Byte) (s : State) : (writeReg r u s).stack = s.stack := rfl
@[simp] theorem writeReg_dt (r : Reg) (u : Byte) (s : State) : (writeReg r u s).dt = s.dt := rfl
@[simp] theorem writeReg_st (r : Reg) (u : Byte) (s : State) : (writeReg r u s).st = s.st := rfl
@[simp] theorem writeReg_accDT (r : Reg) (u : Byte) (s : State) : (writeReg r u s).accDT = s.accDT := rfl
@[simp] theorem writeReg_accST (r : Reg) (u : Byte) (s : State) : (writeReg r u s).accST = s.accST := rfl
@[simp] theorem writeReg_suspended (r : Reg) (u : Byte) (s : State) : (writeReg r u s).suspended = s.suspended := rfl
@[simp] theorem writeReg_waitReg (r : Reg) (u : Byte) (s : State) : (writeReg r u s).waitReg = s.waitReg := rfl
@[simp] theorem writeReg_doWrap (r : Reg) (u : Byte) (s : State) : (writeReg r u s).doWrap = s.doWrap := rfl
@[simp] theorem writeReg_run (r : Reg) (u : Byte) (s : State) : (writeReg r u s).run = s.run := rfl
@[simp] theorem writeReg_mem (r : Reg) (u : Byte) (s : State) : (writeReg r u s).mem = s.mem := rfl
@[simp] theorem writeReg_pending (r : Reg) (u : Byte) (s : State) : (writeReg r u s).pending = s.pending := rfl
@[simp] theorem writeReg_fb (r : Reg) (u : Byte) (s : State) : (writeReg r u s).fb = s.fb := rfl
@[simp] theorem writeReg_script (r : Reg) (u : Byte) (s : State) : (writeReg r u s).script = s.script := rfl
@[simp] theorem writeReg_randomTape (r : Reg) (u : Byte) (s : State) : (writeReg r u s).randomTape = s.randomTape := rfl
@[simp] theorem writeReg_keyTape (r : Reg) (u : Byte) (s : State) : (writeReg r u s).keyTape = s.keyTape := rfl
@[simp] theorem writeReg_drawTape (r : Reg) (u : Byte) (s : State) : (writeReg r u s).drawTape = s.drawTape := rfl
@[simp] theorem writeReg_calls (r : Reg) (u : Byte) (s : State) : (writeReg r u s).calls = s.calls := rfl
@[simp] theorem writeReg_hostErrors (r : Reg) (u : Byte) (s : State) : (writeReg r u s).hostErrors = s.hostErrors := rfl

@[simp] theorem setI_v (a : Word) (s : State) : (setI a s).v = s.v := rfl
@[simp] theorem setI_i (a : Word) (s : State) : (setI a s).i = a := rfl
@[simp] theorem setI_pc (a : Word) (s : State) : (setI a s).pc = s.pc := rfl
@[simp] theorem setI_sp (a : Word) (s : State) : (setI a s).sp = s.sp := rfl
@[simp] theorem setI_stack (a : Word) (s : State) : (setI a s).stack = s.stack := rfl
@[simp] theorem setI_dt (a : Word) (s : State) : (setI a s).dt = s.dt := rfl
@[simp] theorem setI_st (a : Word) (s : State) : (setI a s).st = s.st := rfl
@[simp] theorem setI_accDT (a : Word) (s : State) : (setI a s).accDT = s.accDT := rfl
@[simp] theorem setI_accST (a : Word) (s : State) : (setI a s).accST = s.accST := rfl
@[simp] theorem setI_suspended (a : Word) (s : State) : (setI a s).suspended = s.suspended := rfl
@[simp] theorem setI_waitReg (a : Word) (s : State) : (setI a s).waitReg = s.waitReg := rfl
@[simp] theorem setI_doWrap (a : Word) (s : State) : (setI a s).doWrap = s.doWrap := rfl
@[simp] theorem setI_run (a : Word) (s : State) : (setI a s).run = s.run := rfl
@[simp] theorem setI_mem (a : Word) (s : State) : (setI a s).mem = s.mem := rfl
@[simp] theorem setI_pending (a : Word) (s : State) : (setI a s).pending = s.pending := rfl
@[simp] theorem setI_fb (a : Word) (s : State) : (setI a s).fb = s.fb := rfl
@[simp] theorem setI_script (a : Word) (s : State) : (setI a s).script = s.script := rfl
@[simp] theorem setI_randomTape (a : Word) (s : State) : (setI a s).randomTape = s.randomTape := rfl
@[simp] theorem setI_keyTape (a : Word) (s : State) : (setI a s).keyTape = s.keyTape := rfl
@[simp] theorem setI_drawTape (a : Word) (s : State) : (setI a s).drawTape = s.drawTape := rfl
@[simp] theorem setI_calls (a : Word) (s : State) : (setI a s).calls = s.calls := rfl
@[simp] theorem setI_hostErrors (a : Word) (s : State) : (setI a s).hostErrors = s.hostErrors := rfl

@[simp] theorem jumpTo_v (a : Word) (s : State) : (jumpTo a s).v = s.v := rfl
@[simp] theorem jumpTo_i (a : Word) (s : State) : (jumpTo a s).i = s.i := rfl
@[simp] theorem jumpTo_pc (a : Word) (s : State) : (jumpTo a s).pc = a := rfl
@[simp] theorem jumpTo_sp (a : Word) (s : State) : (jumpTo a s).sp = s.sp := rfl
@[simp] theorem jumpTo_stack (a : Word) (s : State) : (jumpTo a s).stack = s.stack := rfl
@[simp] theorem jumpTo_dt (a : Word) (s : State) : (jumpTo a s).dt = s.dt := rfl
@[simp] theorem jumpTo_st (a : Word) (s : State) : (jumpTo a s).st = s.st := rfl
@[simp] theorem jumpTo_accDT (a : Word) (s : State) : (jumpTo a s).accDT = s.accDT := rfl
@[simp] theorem jumpTo_accST (a : Word) (s : State) : (jumpTo a s).accST = s.accST := rfl
@[simp] theorem jumpTo_suspended (a : Word) (s : State) : (jumpTo a s).suspended = s.suspended := rfl
@[simp] theorem jumpTo_waitReg (a : Word) (s : State) : (jumpTo a s).waitReg = s.waitReg := rfl
@[simp] theorem jumpTo_doWrap (a : Word) (s : State) : (jumpTo a s).doWrap = s.doWrap := rfl
@[simp] theorem jumpTo_run (a : Word) (s : State) : (jumpTo a s).run = s.run := rfl
@[simp] theorem jumpTo_mem (a : Word) (s : State) : (jumpTo a s).mem = s.mem := rfl
@[simp] theorem jumpTo_pending (a : Word) (s : State) : (jumpTo a s).pending = s.pending := rfl
@[simp] theorem jumpTo_fb (a : Word) (s : State) : (jumpTo a s).fb = s.fb := rfl
@[simp] theorem jumpTo_script (a : Word) (s : State) : (jumpTo a s).script = s.script := rfl
@[simp] theorem jumpTo_randomTape (a : Word) (s : State) : (jumpTo a s).randomTape = s.randomTape := rfl
@[simp] theorem jumpTo_keyTape (a : Word) (s : State) : (jumpTo a s).keyTape = s.keyTape := rfl
@[simp] theorem jumpTo_drawTape (a : Word) (s : State) : (jumpTo a s).drawTape = s.drawTape := rfl
@[simp] theorem jumpTo_calls (a : Word) (s : State) : (jumpTo a s).calls = s.calls := rfl
@[simp] theorem jumpTo_hostErrors (a : Word) (s : State) : (jumpTo a s).hostErrors = s.hostErrors := rfl

@[simp] theorem advancePC_v (s : State) : (advancePC s).v = s.v := rfl
@[simp] theorem advancePC_i (s : State) : (advancePC s).i = s.i := rfl
@[simp] theorem advancePC_pc (s : State) : (advancePC s).pc = s.pc + 2#16 := rfl
@[simp] theorem advancePC_sp (s : State) : (advancePC s).sp = s.sp := rfl
@[simp] theorem advancePC_stack (s : State) : (advancePC s).stack = s.stack := rfl
@[simp] theorem advancePC_dt (s : State) : (advancePC s).dt = s.dt := rfl
@[simp] theorem advancePC_st (s : State) : (advancePC s).st = s.st := rfl
@[simp] theorem advancePC_accDT (s : State) : (advancePC s).accDT = s.accDT := rfl
@[simp] theorem advancePC_accST (s : State) : (advancePC s).accST = s.accST := rfl
@[simp] theorem advancePC_suspended (s : State) : (advancePC s).suspended = s.suspended := rfl
@[simp] theorem advancePC_waitReg (s : State) : (advancePC s).waitReg = s.waitReg := rfl
@[simp] theorem advancePC_doWrap (s : State) : (advancePC s).doWrap = s.doWrap := rfl
@[simp] theorem advancePC_run (s : State) : (advancePC s).run = s.run := rfl
@[simp] theorem advancePC_mem (s : State) : (advancePC s).mem = s.mem := rfl
@[simp] theorem advancePC_pending (s : State) : (advancePC s).pending = s.pending := rfl
@[simp] theorem advancePC_fb (s : State) : (advancePC s).fb = s.fb := rfl
@[simp] theorem advancePC_script (s : State) : (advancePC s).script = s.script := rfl
@[simp] theorem advancePC_randomTape (s : State) : (advancePC s).randomTape = s.randomTape := rfl
@[simp] theorem advancePC_keyTape (s : State) : (advancePC s).keyTape = s.keyTape := rfl
@[simp] theorem advancePC_drawTape (s : State) : (advancePC s).drawTape = s.drawTape := rfl
@[simp] theorem advancePC_calls (s : State) : (advancePC s).calls = s.calls := rfl
@[simp] theorem advancePC_hostErrors (s : State) : (advancePC s).hostErrors = s.hostErrors := rfl

@[simp] theorem writeByte_v (a : Nat) (u : Byte) (s : State) : (writeByte a u s).v = s.v := rfl
@[simp] theorem writeByte_i (a : Nat) (u : Byte) (s : State) : (writeByte a u s).i = s.i := rfl
@[simp] theorem writeByte_pc (a : Nat) (u : Byte) (s : State) : (writeByte a u s).pc = s.pc := rfl
@[simp] theorem writeByte_sp (a : Nat) (u : Byte) (s : State) : (writeByte a u s).sp = s.sp := rfl
@[simp] theorem writeByte_stack (a : Nat) (u : Byte) (s : State) : (writeByte a u s).stack = s.stack := rfl
@[simp] theorem writeByte_dt (a : Nat) (u : Byte) (s : State) : (writeByte a u s).dt = s.dt := rfl
@[simp] theorem writeByte_st (a : Nat) (u : Byte) (s : State) : (writeByte a u s).st = s.st := rfl
@[simp] theorem writeByte_accDT (a : Nat) (u : Byte) (s : State) : (writeByte a u s).accDT = s.accDT := rfl
@[simp] theorem writeByte_accST (a : Nat) (u : Byte) (s : State) : (writeByte a u s).accST = s.accST := rfl
@[simp] theorem writeByte_suspended (a : Nat) (u : Byte) (s : State) : (writeByte a u s).suspended = s.suspended := rfl
@[simp] theorem writeByte_waitReg (a : Nat) (u : Byte) (s : State) : (writeByte a u s).waitReg = s.waitReg := rfl
@[simp] theorem writeByte_doWrap (a : Nat) (u : Byte) (s : State) : (writeByte a u s).doWrap = s.doWrap := rfl
@[simp] theorem writeByte_run (a : Nat) (u : Byte) (s : State) : (writeByte a u s).run = s.run := rfl
@[simp] theorem writeByte_mem (a : Nat) (u : Byte) (s : State) :
    (writeByte a u s).mem = memInsert (reduceAddr a) u s.mem := rfl
@[simp] theorem writeByte_pending (a : Nat) (u : Byte) (s : State) : (writeByte a u s).pending = s.pending := rfl
@[simp] theorem writeByte_fb (a : Nat) (u : Byte) (s : State) : (writeByte a u s).fb = s.fb := rfl
@[simp] theorem writeByte_script (a : Nat) (u : Byte) (s : State) : (writeByte a u s).script = s.script := rfl
@[simp] theorem writeByte_randomTape (a : Nat) (u : Byte) (s : State) :
    (writeByte a u s).randomTape = s.randomTape := rfl
@[simp] theorem writeByte_keyTape (a : Nat) (u : Byte) (s : State) : (writeByte a u s).keyTape = s.keyTape := rfl
@[simp] theorem writeByte_drawTape (a : Nat) (u : Byte) (s : State) : (writeByte a u s).drawTape = s.drawTape := rfl
@[simp] theorem writeByte_calls (a : Nat) (u : Byte) (s : State) : (writeByte a u s).calls = s.calls := rfl
@[simp] theorem writeByte_hostErrors (a : Nat) (u : Byte) (s : State) :
    (writeByte a u s).hostErrors = s.hostErrors := rfl

@[simp] theorem pushStack_v (p : Byte) (a : Word) (s : State) : (pushStack p a s).v = s.v := rfl
@[simp] theorem pushStack_i (p : Byte) (a : Word) (s : State) : (pushStack p a s).i = s.i := rfl
@[simp] theorem pushStack_pc (p : Byte) (a : Word) (s : State) : (pushStack p a s).pc = s.pc := rfl
@[simp] theorem pushStack_sp (p : Byte) (a : Word) (s : State) : (pushStack p a s).sp = p := rfl
@[simp] theorem pushStack_stack (p : Byte) (a : Word) (s : State) :
    (pushStack p a s).stack = s.stack.set (stackIndex p).val a := rfl
@[simp] theorem pushStack_dt (p : Byte) (a : Word) (s : State) : (pushStack p a s).dt = s.dt := rfl
@[simp] theorem pushStack_st (p : Byte) (a : Word) (s : State) : (pushStack p a s).st = s.st := rfl
@[simp] theorem pushStack_accDT (p : Byte) (a : Word) (s : State) : (pushStack p a s).accDT = s.accDT := rfl
@[simp] theorem pushStack_accST (p : Byte) (a : Word) (s : State) : (pushStack p a s).accST = s.accST := rfl
@[simp] theorem pushStack_suspended (p : Byte) (a : Word) (s : State) : (pushStack p a s).suspended = s.suspended := rfl
@[simp] theorem pushStack_waitReg (p : Byte) (a : Word) (s : State) : (pushStack p a s).waitReg = s.waitReg := rfl
@[simp] theorem pushStack_doWrap (p : Byte) (a : Word) (s : State) : (pushStack p a s).doWrap = s.doWrap := rfl
@[simp] theorem pushStack_run (p : Byte) (a : Word) (s : State) : (pushStack p a s).run = s.run := rfl
@[simp] theorem pushStack_mem (p : Byte) (a : Word) (s : State) : (pushStack p a s).mem = s.mem := rfl
@[simp] theorem pushStack_pending (p : Byte) (a : Word) (s : State) : (pushStack p a s).pending = s.pending := rfl
@[simp] theorem pushStack_fb (p : Byte) (a : Word) (s : State) : (pushStack p a s).fb = s.fb := rfl
@[simp] theorem pushStack_script (p : Byte) (a : Word) (s : State) : (pushStack p a s).script = s.script := rfl
@[simp] theorem pushStack_randomTape (p : Byte) (a : Word) (s : State) :
    (pushStack p a s).randomTape = s.randomTape := rfl
@[simp] theorem pushStack_keyTape (p : Byte) (a : Word) (s : State) : (pushStack p a s).keyTape = s.keyTape := rfl
@[simp] theorem pushStack_drawTape (p : Byte) (a : Word) (s : State) : (pushStack p a s).drawTape = s.drawTape := rfl
@[simp] theorem pushStack_calls (p : Byte) (a : Word) (s : State) : (pushStack p a s).calls = s.calls := rfl
@[simp] theorem pushStack_hostErrors (p : Byte) (a : Word) (s : State) :
    (pushStack p a s).hostErrors = s.hostErrors := rfl

@[simp] theorem stop_v (r : StopReason) (s : State) : (stop r s).v = s.v := rfl
@[simp] theorem stop_i (r : StopReason) (s : State) : (stop r s).i = s.i := rfl
@[simp] theorem stop_pc (r : StopReason) (s : State) : (stop r s).pc = s.pc := rfl
@[simp] theorem stop_sp (r : StopReason) (s : State) : (stop r s).sp = s.sp := rfl
@[simp] theorem stop_stack (r : StopReason) (s : State) : (stop r s).stack = s.stack := rfl
@[simp] theorem stop_dt (r : StopReason) (s : State) : (stop r s).dt = s.dt := rfl
@[simp] theorem stop_st (r : StopReason) (s : State) : (stop r s).st = s.st := rfl
@[simp] theorem stop_accDT (r : StopReason) (s : State) : (stop r s).accDT = s.accDT := rfl
@[simp] theorem stop_accST (r : StopReason) (s : State) : (stop r s).accST = s.accST := rfl
@[simp] theorem stop_suspended (r : StopReason) (s : State) : (stop r s).suspended = s.suspended := rfl
@[simp] theorem stop_waitReg (r : StopReason) (s : State) : (stop r s).waitReg = s.waitReg := rfl
@[simp] theorem stop_doWrap (r : StopReason) (s : State) : (stop r s).doWrap = s.doWrap := rfl
@[simp] theorem stop_run (r : StopReason) (s : State) : (stop r s).run = .stopped r := rfl
@[simp] theorem stop_mem (r : StopReason) (s : State) : (stop r s).mem = s.mem := rfl
@[simp] theorem stop_pending (r : StopReason) (s : State) : (stop r s).pending = s.pending := rfl
@[simp] theorem stop_fb (r : StopReason) (s : State) : (stop r s).fb = s.fb := rfl
@[simp] theorem stop_script (r : StopReason) (s : State) : (stop r s).script = s.script := rfl
@[simp] theorem stop_randomTape (r : StopReason) (s : State) : (stop r s).randomTape = s.randomTape := rfl
@[simp] theorem stop_keyTape (r : StopReason) (s : State) : (stop r s).keyTape = s.keyTape := rfl
@[simp] theorem stop_drawTape (r : StopReason) (s : State) : (stop r s).drawTape = s.drawTape := rfl
@[simp] theorem stop_calls (r : StopReason) (s : State) : (stop r s).calls = s.calls := rfl
@[simp] theorem stop_hostErrors (r : StopReason) (s : State) : (stop r s).hostErrors = s.hostErrors := rfl

@[simp] theorem logCall_v (c : PortCall) (s : State) : (logCall c s).v = s.v := rfl
@[simp] theorem logCall_i (c : PortCall) (s : State) : (logCall c s).i = s.i := rfl
@[simp] theorem logCall_pc (c : PortCall) (s : State) : (logCall c s).pc = s.pc := rfl
@[simp] theorem logCall_sp (c : PortCall) (s : State) : (logCall c s).sp = s.sp := rfl
@[simp] theorem logCall_stack (c : PortCall) (s : State) : (logCall c s).stack = s.stack := rfl
@[simp] theorem logCall_dt (c : PortCall) (s : State) : (logCall c s).dt = s.dt := rfl
@[simp] theorem logCall_st (c : PortCall) (s : State) : (logCall c s).st = s.st := rfl
@[simp] theorem logCall_accDT (c : PortCall) (s : State) : (logCall c s).accDT = s.accDT := rfl
@[simp] theorem logCall_accST (c : PortCall) (s : State) : (logCall c s).accST = s.accST := rfl
@[simp] theorem logCall_suspended (c : PortCall) (s : State) : (logCall c s).suspended = s.suspended := rfl
@[simp] theorem logCall_waitReg (c : PortCall) (s : State) : (logCall c s).waitReg = s.waitReg := rfl
@[simp] theorem logCall_doWrap (c : PortCall) (s : State) : (logCall c s).doWrap = s.doWrap := rfl
@[simp] theorem logCall_run (c : PortCall) (s : State) : (logCall c s).run = s.run := rfl
@[simp] theorem logCall_mem (c : PortCall) (s : State) : (logCall c s).mem = s.mem := rfl
@[simp] theorem logCall_pending (c : PortCall) (s : State) : (logCall c s).pending = s.pending := rfl
@[simp] theorem logCall_fb (c : PortCall) (s : State) : (logCall c s).fb = s.fb := rfl
@[simp] theorem logCall_script (c : PortCall) (s : State) : (logCall c s).script = s.script := rfl
@[simp] theorem logCall_randomTape (c : PortCall) (s : State) : (logCall c s).randomTape = s.randomTape := rfl
@[simp] theorem logCall_keyTape (c : PortCall) (s : State) : (logCall c s).keyTape = s.keyTape := rfl
@[simp] theorem logCall_drawTape (c : PortCall) (s : State) : (logCall c s).drawTape = s.drawTape := rfl
@[simp] theorem logCall_calls (c : PortCall) (s : State) : (logCall c s).calls = c :: s.calls := rfl
@[simp] theorem logCall_hostErrors (c : PortCall) (s : State) : (logCall c s).hostErrors = s.hostErrors := rfl

@[simp] theorem clearScreen_v (s : State) : (clearScreen s).v = s.v := rfl
@[simp] theorem clearScreen_i (s : State) : (clearScreen s).i = s.i := rfl
@[simp] theorem clearScreen_pc (s : State) : (clearScreen s).pc = s.pc := rfl
@[simp] theorem clearScreen_sp (s : State) : (clearScreen s).sp = s.sp := rfl
@[simp] theorem clearScreen_stack (s : State) : (clearScreen s).stack = s.stack := rfl
@[simp] theorem clearScreen_dt (s : State) : (clearScreen s).dt = s.dt := rfl
@[simp] theorem clearScreen_st (s : State) : (clearScreen s).st = s.st := rfl
@[simp] theorem clearScreen_accDT (s : State) : (clearScreen s).accDT = s.accDT := rfl
@[simp] theorem clearScreen_accST (s : State) : (clearScreen s).accST = s.accST := rfl
@[simp] theorem clearScreen_suspended (s : State) : (clearScreen s).suspended = s.suspended := rfl
@[simp] theorem clearScreen_waitReg (s : State) : (clearScreen s).waitReg = s.waitReg := rfl
@[simp] theorem clearScreen_doWrap (s : State) : (clearScreen s).doWrap = s.doWrap := rfl
@[simp] theorem clearScreen_run (s : State) : (clearScreen s).run = s.run := rfl
@[simp] theorem clearScreen_mem (s : State) : (clearScreen s).mem = s.mem := rfl
@[simp] theorem clearScreen_pending (s : State) : (clearScreen s).pending = s.pending := rfl
@[simp] theorem clearScreen_fb (s : State) : (clearScreen s).fb = Vector.replicate 32 0#64 := rfl
@[simp] theorem clearScreen_script (s : State) : (clearScreen s).script = s.script := rfl
@[simp] theorem clearScreen_randomTape (s : State) : (clearScreen s).randomTape = s.randomTape := rfl
@[simp] theorem clearScreen_keyTape (s : State) : (clearScreen s).keyTape = s.keyTape := rfl
@[simp] theorem clearScreen_drawTape (s : State) : (clearScreen s).drawTape = s.drawTape := rfl
@[simp] theorem clearScreen_calls (s : State) : (clearScreen s).calls = .clearScreen :: s.calls := rfl
@[simp] theorem clearScreen_hostErrors (s : State) : (clearScreen s).hostErrors = s.hostErrors := rfl

@[simp] theorem writeDT_v (u : Byte) (s : State) : (writeDT u s).v = s.v := rfl
@[simp] theorem writeDT_i (u : Byte) (s : State) : (writeDT u s).i = s.i := rfl
@[simp] theorem writeDT_pc (u : Byte) (s : State) : (writeDT u s).pc = s.pc := rfl
@[simp] theorem writeDT_sp (u : Byte) (s : State) : (writeDT u s).sp = s.sp := rfl
@[simp] theorem writeDT_stack (u : Byte) (s : State) : (writeDT u s).stack = s.stack := rfl
@[simp] theorem writeDT_dt (u : Byte) (s : State) : (writeDT u s).dt = u := rfl
@[simp] theorem writeDT_st (u : Byte) (s : State) : (writeDT u s).st = s.st := rfl
@[simp] theorem writeDT_accDT (u : Byte) (s : State) : (writeDT u s).accDT = 0 := rfl
@[simp] theorem writeDT_accST (u : Byte) (s : State) : (writeDT u s).accST = s.accST := rfl
@[simp] theorem writeDT_suspended (u : Byte) (s : State) : (writeDT u s).suspended = s.suspended := rfl
@[simp] theorem writeDT_waitReg (u : Byte) (s : State) : (writeDT u s).waitReg = s.waitReg := rfl
@[simp] theorem writeDT_doWrap (u : Byte) (s : State) : (writeDT u s).doWrap = s.doWrap := rfl
@[simp] theorem writeDT_run (u : Byte) (s : State) : (writeDT u s).run = s.run := rfl
@[simp] theorem writeDT_mem (u : Byte) (s : State) : (writeDT u s).mem = s.mem := rfl
@[simp] theorem writeDT_pending (u : Byte) (s : State) : (writeDT u s).pending = s.pending := rfl
@[simp] theorem writeDT_fb (u : Byte) (s : State) : (writeDT u s).fb = s.fb := rfl
@[simp] theorem writeDT_script (u : Byte) (s : State) : (writeDT u s).script = s.script := rfl
@[simp] theorem writeDT_randomTape (u : Byte) (s : State) : (writeDT u s).randomTape = s.randomTape := rfl
@[simp] theorem writeDT_keyTape (u : Byte) (s : State) : (writeDT u s).keyTape = s.keyTape := rfl
@[simp] theorem writeDT_drawTape (u : Byte) (s : State) : (writeDT u s).drawTape = s.drawTape := rfl
@[simp] theorem writeDT_calls (u : Byte) (s : State) : (writeDT u s).calls = s.calls := rfl
@[simp] theorem writeDT_hostErrors (u : Byte) (s : State) : (writeDT u s).hostErrors = s.hostErrors := rfl

@[simp] theorem writeST_v (u : Byte) (s : State) : (writeST u s).v = s.v := rfl
@[simp] theorem writeST_i (u : Byte) (s : State) : (writeST u s).i = s.i := rfl
@[simp] theorem writeST_pc (u : Byte) (s : State) : (writeST u s).pc = s.pc := rfl
@[simp] theorem writeST_sp (u : Byte) (s : State) : (writeST u s).sp = s.sp := rfl
@[simp] theorem writeST_stack (u : Byte) (s : State) : (writeST u s).stack = s.stack := rfl
@[simp] theorem writeST_dt (u : Byte) (s : State) : (writeST u s).dt = s.dt := rfl
@[simp] theorem writeST_st (u : Byte) (s : State) : (writeST u s).st = u := rfl
@[simp] theorem writeST_accDT (u : Byte) (s : State) : (writeST u s).accDT = s.accDT := rfl
@[simp] theorem writeST_accST (u : Byte) (s : State) : (writeST u s).accST = 0 := rfl
@[simp] theorem writeST_suspended (u : Byte) (s : State) : (writeST u s).suspended = s.suspended := rfl
@[simp] theorem writeST_waitReg (u : Byte) (s : State) : (writeST u s).waitReg = s.waitReg := rfl
@[simp] theorem writeST_doWrap (u : Byte) (s : State) : (writeST u s).doWrap = s.doWrap := rfl
@[simp] theorem writeST_run (u : Byte) (s : State) : (writeST u s).run = s.run := rfl
@[simp] theorem writeST_mem (u : Byte) (s : State) : (writeST u s).mem = s.mem := rfl
@[simp] theorem writeST_pending (u : Byte) (s : State) : (writeST u s).pending = s.pending := rfl
@[simp] theorem writeST_fb (u : Byte) (s : State) : (writeST u s).fb = s.fb := rfl
@[simp] theorem writeST_script (u : Byte) (s : State) : (writeST u s).script = s.script := rfl
@[simp] theorem writeST_randomTape (u : Byte) (s : State) : (writeST u s).randomTape = s.randomTape := rfl
@[simp] theorem writeST_keyTape (u : Byte) (s : State) : (writeST u s).keyTape = s.keyTape := rfl
@[simp] theorem writeST_drawTape (u : Byte) (s : State) : (writeST u s).drawTape = s.drawTape := rfl
@[simp] theorem writeST_calls (u : Byte) (s : State) : (writeST u s).calls = s.calls := rfl
@[simp] theorem writeST_hostErrors (u : Byte) (s : State) : (writeST u s).hostErrors = s.hostErrors := rfl

@[simp] theorem timerUpdate_v (d : Time) (s : State) : (timerUpdate d s).v = s.v := rfl
@[simp] theorem timerUpdate_i (d : Time) (s : State) : (timerUpdate d s).i = s.i := rfl
@[simp] theorem timerUpdate_pc (d : Time) (s : State) : (timerUpdate d s).pc = s.pc := rfl
@[simp] theorem timerUpdate_sp (d : Time) (s : State) : (timerUpdate d s).sp = s.sp := rfl
@[simp] theorem timerUpdate_stack (d : Time) (s : State) : (timerUpdate d s).stack = s.stack := rfl
@[simp] theorem timerUpdate_dt (d : Time) (s : State) : (timerUpdate d s).dt = timerAfter s.dt s.accDT d := rfl
@[simp] theorem timerUpdate_st (d : Time) (s : State) : (timerUpdate d s).st = timerAfter s.st s.accST d := rfl
@[simp] theorem timerUpdate_accDT (d : Time) (s : State) : (timerUpdate d s).accDT = accAfter s.accDT d := rfl
@[simp] theorem timerUpdate_accST (d : Time) (s : State) : (timerUpdate d s).accST = accAfter s.accST d := rfl
@[simp] theorem timerUpdate_suspended (d : Time) (s : State) : (timerUpdate d s).suspended = s.suspended := rfl
@[simp] theorem timerUpdate_waitReg (d : Time) (s : State) : (timerUpdate d s).waitReg = s.waitReg := rfl
@[simp] theorem timerUpdate_doWrap (d : Time) (s : State) : (timerUpdate d s).doWrap = s.doWrap := rfl
@[simp] theorem timerUpdate_run (d : Time) (s : State) : (timerUpdate d s).run = s.run := rfl
@[simp] theorem timerUpdate_mem (d : Time) (s : State) : (timerUpdate d s).mem = s.mem := rfl
@[simp] theorem timerUpdate_pending (d : Time) (s : State) : (timerUpdate d s).pending = s.pending := rfl
@[simp] theorem timerUpdate_fb (d : Time) (s : State) : (timerUpdate d s).fb = s.fb := rfl
@[simp] theorem timerUpdate_script (d : Time) (s : State) : (timerUpdate d s).script = s.script := rfl
@[simp] theorem timerUpdate_randomTape (d : Time) (s : State) : (timerUpdate d s).randomTape = s.randomTape := rfl
@[simp] theorem timerUpdate_keyTape (d : Time) (s : State) : (timerUpdate d s).keyTape = s.keyTape := rfl
@[simp] theorem timerUpdate_drawTape (d : Time) (s : State) : (timerUpdate d s).drawTape = s.drawTape := rfl
@[simp] theorem timerUpdate_calls (d : Time) (s : State) : (timerUpdate d s).calls = s.calls := rfl
@[simp] theorem timerUpdate_hostErrors (d : Time) (s : State) : (timerUpdate d s).hostErrors = s.hostErrors := rfl

@[simp] theorem afterRandom_v (s : State) : (afterRandom s).v = s.v := rfl
@[simp] theorem afterRandom_i (s : State) : (afterRandom s).i = s.i := rfl
@[simp] theorem afterRandom_pc (s : State) : (afterRandom s).pc = s.pc := rfl
@[simp] theorem afterRandom_sp (s : State) : (afterRandom s).sp = s.sp := rfl
@[simp] theorem afterRandom_stack (s : State) : (afterRandom s).stack = s.stack := rfl
@[simp] theorem afterRandom_dt (s : State) : (afterRandom s).dt = s.dt := rfl
@[simp] theorem afterRandom_st (s : State) : (afterRandom s).st = s.st := rfl
@[simp] theorem afterRandom_accDT (s : State) : (afterRandom s).accDT = s.accDT := rfl
@[simp] theorem afterRandom_accST (s : State) : (afterRandom s).accST = s.accST := rfl
@[simp] theorem afterRandom_suspended (s : State) : (afterRandom s).suspended = s.suspended := rfl
@[simp] theorem afterRandom_waitReg (s : State) : (afterRandom s).waitReg = s.waitReg := rfl
@[simp] theorem afterRandom_doWrap (s : State) : (afterRandom s).doWrap = s.doWrap := rfl
@[simp] theorem afterRandom_run (s : State) : (afterRandom s).run = s.run := rfl
@[simp] theorem afterRandom_mem (s : State) : (afterRandom s).mem = s.mem := rfl
@[simp] theorem afterRandom_pending (s : State) : (afterRandom s).pending = s.pending := rfl
@[simp] theorem afterRandom_fb (s : State) : (afterRandom s).fb = s.fb := rfl
@[simp] theorem afterRandom_script (s : State) : (afterRandom s).script = s.script := rfl
@[simp] theorem afterRandom_randomTape (s : State) : (afterRandom s).randomTape = s.randomTape.tail := rfl
@[simp] theorem afterRandom_keyTape (s : State) : (afterRandom s).keyTape = s.keyTape := rfl
@[simp] theorem afterRandom_drawTape (s : State) : (afterRandom s).drawTape = s.drawTape := rfl
@[simp] theorem afterRandom_calls (s : State) : (afterRandom s).calls = .getRandomByte :: s.calls := rfl
@[simp] theorem afterRandom_hostErrors (s : State) : (afterRandom s).hostErrors = s.hostErrors := rfl

@[simp] theorem afterKeyTest_v (k : Byte) (s : State) : (afterKeyTest k s).v = s.v := rfl
@[simp] theorem afterKeyTest_i (k : Byte) (s : State) : (afterKeyTest k s).i = s.i := rfl
@[simp] theorem afterKeyTest_pc (k : Byte) (s : State) : (afterKeyTest k s).pc = s.pc := rfl
@[simp] theorem afterKeyTest_sp (k : Byte) (s : State) : (afterKeyTest k s).sp = s.sp := rfl
@[simp] theorem afterKeyTest_stack (k : Byte) (s : State) : (afterKeyTest k s).stack = s.stack := rfl
@[simp] theorem afterKeyTest_dt (k : Byte) (s : State) : (afterKeyTest k s).dt = s.dt := rfl
@[simp] theorem afterKeyTest_st (k : Byte) (s : State) : (afterKeyTest k s).st = s.st := rfl
@[simp] theorem afterKeyTest_accDT (k : Byte) (s : State) : (afterKeyTest k s).accDT = s.accDT := rfl
@[simp] theorem afterKeyTest_accST (k : Byte) (s : State) : (afterKeyTest k s).accST = s.accST := rfl
@[simp] theorem afterKeyTest_suspended (k : Byte) (s : State) : (afterKeyTest k s).suspended = s.suspended := rfl
@[simp] theorem afterKeyTest_waitReg (k : Byte) (s : State) : (afterKeyTest k s).waitReg = s.waitReg := rfl
@[simp] theorem afterKeyTest_doWrap (k : Byte) (s : State) : (afterKeyTest k s).doWrap = s.doWrap := rfl
@[simp] theorem afterKeyTest_run (k : Byte) (s : State) : (afterKeyTest k s).run = s.run := rfl
@[simp] theorem afterKeyTest_mem (k : Byte) (s : State) : (afterKeyTest k s).mem = s.mem := rfl
@[simp] theorem afterKeyTest_pending (k : Byte) (s : State) : (afterKeyTest k s).pending = s.pending := rfl
@[simp] theorem afterKeyTest_fb (k : Byte) (s : State) : (afterKeyTest k s).fb = s.fb := rfl
@[simp] theorem afterKeyTest_script (k : Byte) (s : State) : (afterKeyTest k s).script = s.script := rfl
@[simp] theorem afterKeyTest_randomTape (k : Byte) (s : State) : (afterKeyTest k s).randomTape = s.randomTape := rfl
@[simp] theorem afterKeyTest_keyTape (k : Byte) (s : State) : (afterKeyTest k s).keyTape = s.keyTape.tail := rfl
@[simp] theorem afterKeyTest_drawTape (k : Byte) (s : State) : (afterKeyTest k s).drawTape = s.drawTape := rfl
@[simp] theorem afterKeyTest_calls (k : Byte) (s : State) : (afterKeyTest k s).calls = .isKeyPressed k :: s.calls := rfl
@[simp] theorem afterKeyTest_hostErrors (k : Byte) (s : State) : (afterKeyTest k s).hostErrors = s.hostErrors := rfl

@[simp] theorem afterDraw_v (x y : Byte) (rows : List Byte) (s : State) : (afterDraw x y rows s).v = s.v := rfl
@[simp] theorem afterDraw_i (x y : Byte) (rows : List Byte) (s : State) : (afterDraw x y rows s).i = s.i := rfl
@[simp] theorem afterDraw_pc (x y : Byte) (rows : List Byte) (s : State) : (afterDraw x y rows s).pc = s.pc := rfl
@[simp] theorem afterDraw_sp (x y : Byte) (rows : List Byte) (s : State) : (afterDraw x y rows s).sp = s.sp := rfl
@[simp] theorem afterDraw_stack (x y : Byte) (rows : List Byte) (s : State) :
    (afterDraw x y rows s).stack = s.stack := rfl
@[simp] theorem afterDraw_dt (x y : Byte) (rows : List Byte) (s : State) : (afterDraw x y rows s).dt = s.dt := rfl
@[simp] theorem afterDraw_st (x y : Byte) (rows : List Byte) (s : State) : (afterDraw x y rows s).st = s.st := rfl
@[simp] theorem afterDraw_accDT (x y : Byte) (rows : List Byte) (s : State) :
    (afterDraw x y rows s).accDT = s.accDT := rfl
@[simp] theorem afterDraw_accST (x y : Byte) (rows : List Byte) (s : State) :
    (afterDraw x y rows s).accST = s.accST := rfl
@[simp] theorem afterDraw_suspended (x y : Byte) (rows : List Byte) (s : State) :
    (afterDraw x y rows s).suspended = s.suspended := rfl
@[simp] theorem afterDraw_waitReg (x y : Byte) (rows : List Byte) (s : State) :
    (afterDraw x y rows s).waitReg = s.waitReg := rfl
@[simp] theorem afterDraw_doWrap (x y : Byte) (rows : List Byte) (s : State) :
    (afterDraw x y rows s).doWrap = s.doWrap := rfl
@[simp] theorem afterDraw_run (x y : Byte) (rows : List Byte) (s : State) : (afterDraw x y rows s).run = s.run := rfl
@[simp] theorem afterDraw_mem (x y : Byte) (rows : List Byte) (s : State) : (afterDraw x y rows s).mem = s.mem := rfl
@[simp] theorem afterDraw_pending (x y : Byte) (rows : List Byte) (s : State) :
    (afterDraw x y rows s).pending = s.pending := rfl
@[simp] theorem afterDraw_fb (x y : Byte) (rows : List Byte) (s : State) :
    (afterDraw x y rows s).fb = (referenceDraw x y rows s.doWrap s.fb).2 := rfl
@[simp] theorem afterDraw_script (x y : Byte) (rows : List Byte) (s : State) :
    (afterDraw x y rows s).script = s.script := rfl
@[simp] theorem afterDraw_randomTape (x y : Byte) (rows : List Byte) (s : State) :
    (afterDraw x y rows s).randomTape = s.randomTape := rfl
@[simp] theorem afterDraw_keyTape (x y : Byte) (rows : List Byte) (s : State) :
    (afterDraw x y rows s).keyTape = s.keyTape := rfl
@[simp] theorem afterDraw_drawTape (x y : Byte) (rows : List Byte) (s : State) :
    (afterDraw x y rows s).drawTape = s.drawTape.tail := rfl
@[simp] theorem afterDraw_calls (x y : Byte) (rows : List Byte) (s : State) :
    (afterDraw x y rows s).calls = .draw x y rows (BitVec.ofNat 8 rows.length) s.doWrap :: s.calls := rfl
@[simp] theorem afterDraw_hostErrors (x y : Byte) (rows : List Byte) (s : State) :
    (afterDraw x y rows s).hostErrors = s.hostErrors := rfl

@[simp] theorem setDoWrap_v (w : Bool) (s : State) : (setDoWrap w s).v = s.v := rfl
@[simp] theorem setDoWrap_i (w : Bool) (s : State) : (setDoWrap w s).i = s.i := rfl
@[simp] theorem setDoWrap_pc (w : Bool) (s : State) : (setDoWrap w s).pc = s.pc := rfl
@[simp] theorem setDoWrap_sp (w : Bool) (s : State) : (setDoWrap w s).sp = s.sp := rfl
@[simp] theorem setDoWrap_stack (w : Bool) (s : State) : (setDoWrap w s).stack = s.stack := rfl
@[simp] theorem setDoWrap_dt (w : Bool) (s : State) : (setDoWrap w s).dt = s.dt := rfl
@[simp] theorem setDoWrap_st (w : Bool) (s : State) : (setDoWrap w s).st = s.st := rfl
@[simp] theorem setDoWrap_accDT (w : Bool) (s : State) : (setDoWrap w s).accDT = s.accDT := rfl
@[simp] theorem setDoWrap_accST (w : Bool) (s : State) : (setDoWrap w s).accST = s.accST := rfl
@[simp] theorem setDoWrap_suspended (w : Bool) (s : State) : (setDoWrap w s).suspended = s.suspended := rfl
@[simp] theorem setDoWrap_waitReg (w : Bool) (s : State) : (setDoWrap w s).waitReg = s.waitReg := rfl
@[simp] theorem setDoWrap_doWrap (w : Bool) (s : State) : (setDoWrap w s).doWrap = w := rfl
@[simp] theorem setDoWrap_run (w : Bool) (s : State) : (setDoWrap w s).run = s.run := rfl
@[simp] theorem setDoWrap_mem (w : Bool) (s : State) : (setDoWrap w s).mem = s.mem := rfl
@[simp] theorem setDoWrap_pending (w : Bool) (s : State) : (setDoWrap w s).pending = s.pending := rfl
@[simp] theorem setDoWrap_fb (w : Bool) (s : State) : (setDoWrap w s).fb = s.fb := rfl
@[simp] theorem setDoWrap_script (w : Bool) (s : State) : (setDoWrap w s).script = s.script := rfl
@[simp] theorem setDoWrap_randomTape (w : Bool) (s : State) : (setDoWrap w s).randomTape = s.randomTape := rfl
@[simp] theorem setDoWrap_keyTape (w : Bool) (s : State) : (setDoWrap w s).keyTape = s.keyTape := rfl
@[simp] theorem setDoWrap_drawTape (w : Bool) (s : State) : (setDoWrap w s).drawTape = s.drawTape := rfl
@[simp] theorem setDoWrap_calls (w : Bool) (s : State) : (setDoWrap w s).calls = s.calls := rfl
@[simp] theorem setDoWrap_hostErrors (w : Bool) (s : State) : (setDoWrap w s).hostErrors = s.hostErrors := rfl

@[simp] theorem takeAction_v (s : State) : (takeAction s).v = s.v := rfl
@[simp] theorem takeAction_i (s : State) : (takeAction s).i = s.i := rfl
@[simp] theorem takeAction_pc (s : State) : (takeAction s).pc = s.pc := rfl
@[simp] theorem takeAction_sp (s : State) : (takeAction s).sp = s.sp := rfl
@[simp] theorem takeAction_stack (s : State) : (takeAction s).stack = s.stack := rfl
@[simp] theorem takeAction_dt (s : State) : (takeAction s).dt = s.dt := rfl
@[simp] theorem takeAction_st (s : State) : (takeAction s).st = s.st := rfl
@[simp] theorem takeAction_accDT (s : State) : (takeAction s).accDT = s.accDT := rfl
@[simp] theorem takeAction_accST (s : State) : (takeAction s).accST = s.accST := rfl
@[simp] theorem takeAction_suspended (s : State) : (takeAction s).suspended = s.suspended := rfl
@[simp] theorem takeAction_waitReg (s : State) : (takeAction s).waitReg = s.waitReg := rfl
@[simp] theorem takeAction_doWrap (s : State) : (takeAction s).doWrap = s.doWrap := rfl
@[simp] theorem takeAction_run (s : State) : (takeAction s).run = s.run := rfl
@[simp] theorem takeAction_mem (s : State) : (takeAction s).mem = s.mem := rfl
@[simp] theorem takeAction_pending (s : State) : (takeAction s).pending = s.pending := rfl
@[simp] theorem takeAction_fb (s : State) : (takeAction s).fb = s.fb := rfl
@[simp] theorem takeAction_script (s : State) : (takeAction s).script = s.script.tail := rfl
@[simp] theorem takeAction_randomTape (s : State) : (takeAction s).randomTape = s.randomTape := rfl
@[simp] theorem takeAction_keyTape (s : State) : (takeAction s).keyTape = s.keyTape := rfl
@[simp] theorem takeAction_drawTape (s : State) : (takeAction s).drawTape = s.drawTape := rfl
@[simp] theorem takeAction_calls (s : State) : (takeAction s).calls = s.calls := rfl
@[simp] theorem takeAction_hostErrors (s : State) : (takeAction s).hostErrors = s.hostErrors := rfl

/-! Reading a register or a byte across an operation that does not write there. -/

@[simp] theorem readReg_setI (q : Reg) (a : Word) (s : State) : readReg q (setI a s) = readReg q s := rfl
@[simp] theorem readReg_jumpTo (q : Reg) (a : Word) (s : State) : readReg q (jumpTo a s) = readReg q s := rfl
@[simp] theorem readReg_advancePC (q : Reg) (s : State) : readReg q (advancePC s) = readReg q s := rfl
@[simp] theorem readReg_writeByte (q : Reg) (a : Nat) (u : Byte) (s : State) :
    readReg q (writeByte a u s) = readReg q s := rfl
@[simp] theorem readReg_pushStack (q : Reg) (p : Byte) (a : Word) (s : State) :
    readReg q (pushStack p a s) = readReg q s := rfl
@[simp] theorem readReg_stop (q : Reg) (r : StopReason) (s : State) : readReg q (stop r s) = readReg q s := rfl
@[simp] theorem readReg_logCall (q : Reg) (c : PortCall) (s : State) : readReg q (logCall c s) = readReg q s := rfl
@[simp] theorem readReg_clearScreen (q : Reg) (s : State) : readReg q (clearScreen s) = readReg q s := rfl
@[simp] theorem readReg_writeDT (q : Reg) (u : Byte) (s : State) : readReg q (writeDT u s) = readReg q s := rfl
@[simp] theorem readReg_writeST (q : Reg) (u : Byte) (s : State) : readReg q (writeST u s) = readReg q s := rfl
@[simp] theorem readReg_timerUpdate (q : Reg) (d : Time) (s : State) : readReg q (timerUpdate d s) = readReg q s := rfl
@[simp] theorem readReg_afterRandom (q : Reg) (s : State) : readReg q (afterRandom s) = readReg q s := rfl
@[simp] theorem readReg_afterKeyTest (q : Reg) (k : Byte) (s : State) :
    readReg q (afterKeyTest k s) = readReg q s := rfl
@[simp] theorem readReg_afterDraw (q : Reg) (x y : Byte) (rows : List Byte) (s : State) :
    readReg q (afterDraw x y rows s) = readReg q s := rfl
@[simp] theorem readReg_setDoWrap (q : Reg) (w : Bool) (s : State) : readReg q (setDoWrap w s) = readReg q s := rfl
@[simp] theorem readReg_takeAction (q : Reg) (s : State) : readReg q (takeAction s) = readReg q s := rfl

@[simp] theorem readByte_writeReg (b : Nat) (r : Reg) (u : Byte) (s : State) :
    readByte b (writeReg r u s) = readByte b s := rfl
@[simp] theorem readByte_setI (b : Nat) (a : Word) (s : State) : readByte b (setI a s) = readByte b s := rfl
@[simp] theorem readByte_jumpTo (b : Nat) (a : Word) (s : State) : readByte b (jumpTo a s) = readByte b s := rfl
@[simp] theorem readByte_advancePC (b : Nat) (s : State) : readByte b (advancePC s) = readByte b s := rfl
@[simp] theorem readByte_pushStack (b : Nat) (p : Byte) (a : Word) (s : State) :
    readByte b (pushStack p a s) = readByte b s := rfl
@[simp] theorem readByte_stop (b : Nat) (r : StopReason) (s : State) : readByte b (stop r s) = readByte b s := rfl
@[simp] theorem readByte_logCall (b : Nat) (c : PortCall) (s : State) : readByte b (logCall c s) = readByte b s := rfl
@[simp] theorem readByte_clearScreen (b : Nat) (s : State) : readByte b (clearScreen s) = readByte b s := rfl
@[simp] theorem readByte_writeDT (b : Nat) (u : Byte) (s : State) : readByte b (writeDT u s) = readByte b s := rfl
@[simp] theorem readByte_writeST (b : Nat) (u : Byte) (s : State) : readByte b (writeST u s) = readByte b s := rfl
@[simp] theorem readByte_timerUpdate (b : Nat) (d : Time) (s : State) :
    readByte b (timerUpdate d s) = readByte b s := rfl
@[simp] theorem readByte_afterRandom (b : Nat) (s : State) : readByte b (afterRandom s) = readByte b s := rfl
@[simp] theorem readByte_afterKeyTest (b : Nat) (k : Byte) (s : State) :
    readByte b (afterKeyTest k s) = readByte b s := rfl
@[simp] theorem readByte_afterDraw (b : Nat) (x y : Byte) (rows : List Byte) (s : State) :
    readByte b (afterDraw x y rows s) = readByte b s := rfl
@[simp] theorem readByte_setDoWrap (b : Nat) (w : Bool) (s : State) : readByte b (setDoWrap w s) = readByte b s := rfl
@[simp] theorem readByte_takeAction (b : Nat) (s : State) : readByte b (takeAction s) = readByte b s := rfl

end Sys2Proof.Machine
end

