-- ==== Sys2Proof/Laws/Ops.lean ====
section
/-!
SUPPORT. One lemma per shared operation that says everything it can do, for later proofs to cite instead of unfolding
the operation.
-/
namespace Sys2Proof.Machine

/-! ## Registers and flags -/

@[simp] theorem readReg_writeReg_same (r : Reg) (u : Byte) (s : State) : readReg r (writeReg r u s) = u := by
  simp [readReg]

theorem readReg_writeReg_ne {r q : Reg} (u : Byte) (s : State) (h : q ≠ r) :
    readReg q (writeReg r u s) = readReg q s := by
  have : r.val ≠ q.val := fun e => h (Fin.ext e.symm)
  simp [readReg, this]

/-- A register reads from the register file alone. -/
theorem readReg_congr {s t : State} (r : Reg) (h : t.v = s.v) : readReg r t = readReg r s := by
  simp [readReg, h]

/-- A byte reads from the memory alone. -/
theorem readByte_congr {s t : State} (a : Nat) (h : t.mem = s.mem) : readByte a t = readByte a s := by
  simp [readByte, h]

/-- Writing a flag and then a result changes the register file alone. -/
theorem writeFlagThenResult_eq (x : Reg) (flag result : Byte) (s : State) :
    writeFlagThenResult x flag result s = { s with v := (writeFlagThenResult x flag result s).v } := rfl

/-- The destination ends with the result, VF being no exception (41_alu.md R77). -/
theorem readReg_writeFlagThenResult_dest (x : Reg) (flag result : Byte) (s : State) :
    readReg x (writeFlagThenResult x flag result s) = result := by
  simp [writeFlagThenResult]

/-- VF ends with the flag where it is not the destination. -/
theorem readReg_writeFlagThenResult_vf {x : Reg} (flag result : Byte) (s : State) (h : x ≠ vf) :
    readReg vf (writeFlagThenResult x flag result s) = flag := by
  simp [writeFlagThenResult, readReg_writeReg_ne _ _ h.symm]

/-- Every other register keeps its value. -/
theorem readReg_writeFlagThenResult_ne {x r : Reg} (flag result : Byte) (s : State) (hx : r ≠ x) (hf : r ≠ vf) :
    readReg r (writeFlagThenResult x flag result s) = readReg r s := by
  simp [writeFlagThenResult, readReg_writeReg_ne _ _ hx, readReg_writeReg_ne _ _ hf]

theorem flagByte_cases (c : Bool) : flagByte c = 0x01#8 ∧ c = true ∨ flagByte c = 0x00#8 ∧ c = false := by
  cases c <;> simp [flagByte]

/-- A skip's inner step changes PC alone (30_encoding.md R64). -/
theorem skipIf_eq (c : Bool) (s : State) : skipIf c s = { s with pc := if c then s.pc + 2#16 else s.pc } := by
  cases c <;> simp [skipIf, advancePC]

/-- What a block load leaves in each register (44_index_memory.md R102). -/
theorem getElem_loadBlock (x r : Reg) (s : State) :
    (loadBlock x s)[r.val] = if r.val ≤ x.val then readByte (s.i.toNat + r.val) s else readReg r s := by
  simp [loadBlock, indexAddr]

theorem length_regBlock (x : Reg) (s : State) : (regBlock x s).length = x.val + 1 := by
  have := x.isLt
  simp only [regBlock, List.length_take, Vector.length_toList]
  omega

theorem getElem_regBlock (x : Reg) (s : State) {k : Nat} (h : k < (regBlock x s).length) :
    (regBlock x s)[k] = readReg ⟨k, by have := x.isLt; rw [length_regBlock] at h; omega⟩ s := by
  simp [regBlock, readReg]

@[simp] theorem length_bcdDigits (u : Byte) : (bcdDigits u).length = 3 := rfl

/-! ## The end of a handler -/

/-- Everything the driver can do after a handler (30_encoding.md R63, 60_exceptions.md R109): advance PC, nothing, or
stop the run where it is. -/
theorem afterHandler_cases (status : Status) (s : State) :
    afterHandler status s = advancePC s ∨ afterHandler status s = s ∨ ∃ r, afterHandler status s = stop r s := by
  cases status
  case incrementPC => exact .inl rfl
  case notIncrementPC => exact .inr (.inl rfl)
  case waitForKeyboard => exact .inr (.inl rfl)
  case stackOverflow sp => exact .inr (.inr ⟨.stackOverflow sp, rfl⟩)
  case error code => exact .inr (.inr ⟨.error code, rfl⟩)
  case notImplemented w => exact .inr (.inr ⟨.notImplemented w, rfl⟩)

/-- A handler's end is always a next state. -/
theorem finish_eq_next {status : Status} {s t : State} : finish status s = .next t ↔ afterHandler status s = t := by
  simp [finish]

/-- Everything the end of DRW can do (42_display_input.md R90). -/
theorem finishDraw_cases (a : DrawAnswer) (s : State) :
    (a.errorCode ≠ 0 ∧ finishDraw a s = .next (stop (.error a.errorCode) s)) ∨
      (a.errorCode = 0 ∧ a.collision = true ∧ finishDraw a s = .next (advancePC (writeReg vf 0x01#8 s))) ∨
      (a.errorCode = 0 ∧ a.collision = false ∧ finishDraw a s = .next (advancePC s)) := by
  by_cases h : a.errorCode = 0
  · cases hc : a.collision <;> simp [finishDraw, h, hc, finish, afterHandler]
  · simp [finishDraw, h, finish, afterHandler]

/-! ## The drain and the Tick's first three steps -/

/-- The end of a key wait changes the waiting register, PC, `Suspended` and the record of calls (60_exceptions.md
R117). -/
theorem resume_eq (k : Key) (s : State) :
    resume k s =
      { s with
        v := s.v.set s.waitReg.val (BitVec.ofNat 8 k.val), pc := s.pc + 2#16, suspended := false
        calls := .getKey :: s.calls } := rfl

/-- Everything a drain can change (60_exceptions.md R106). -/
theorem drainEvents_eq : ∀ (es : List InputEvent) (s : State),
    (drainEvents es s).2 =
      { s with
        v := (drainEvents es s).2.v, pc := (drainEvents es s).2.pc, suspended := (drainEvents es s).2.suspended
        calls := (drainEvents es s).2.calls, pending := (drainEvents es s).2.pending }
  | [], _ => rfl
  | .quit :: _, _ => rfl
  | .none :: es, s => drainEvents_eq es s
  | .keyDown k :: es, s => by
    rw [drainEvents]
    split
    · rw [drainEvents_eq es (resume k s)]
      rfl
    · exact drainEvents_eq es s

/-- A drain that finds the core running leaves it all as it was but for the pending events (60_exceptions.md R106). -/
theorem drainEvents_running : ∀ (es : List InputEvent) (s : State), s.suspended = false →
    (drainEvents es s).2 = { s with pending := (drainEvents es s).2.pending }
  | [], _, _ => rfl
  | .quit :: _, _, _ => rfl
  | .none :: es, s, h => drainEvents_running es s h
  | .keyDown k :: es, s, h => by
    rw [drainEvents]
    simpa [h] using drainEvents_running es s h

/-- A drain of events none of which is a Quit reports none, and leaves no event pending. -/
theorem drainEvents_no_quit : ∀ (es : List InputEvent) (s : State), (∀ e ∈ es, e ≠ .quit) →
    (drainEvents es s).1 = false ∧ (drainEvents es s).2.pending = []
  | [], _, _ => ⟨rfl, rfl⟩
  | .quit :: _, _, h => absurd rfl (h .quit (by simp))
  | .none :: es, s, h => drainEvents_no_quit es s fun e he => h e (by simp [he])
  | .keyDown k :: es, s, h => by
    have h' : ∀ e ∈ es, e ≠ InputEvent.quit := fun e he => h e (by simp [he])
    rw [drainEvents]
    split
    · exact drainEvents_no_quit es _ h'
    · exact drainEvents_no_quit es s h'

/-- What may happen in an active state only: it happens there, and is refused in a stopped one (60_exceptions.md
R110). -/
theorem whenActive_eq (s : State) (o : Result) :
    (s.run = .active ∧ whenActive s o = o) ∨
      ((∃ r, s.run = .stopped r) ∧ whenActive s o = .refused .hostActionAfterStop) := by
  unfold whenActive
  cases s.run <;> simp

theorem whenActive_of_active {s : State} (h : s.run = .active) (o : Result) : whenActive s o = o := by
  simp [whenActive, h]

theorem whenActive_next {s t : State} {o : Result} : whenActive s o = .next t ↔ s.run = .active ∧ o = .next t := by
  unfold whenActive
  cases s.run <;> simp

/-- A Tick reaches its execute step exactly when the drain met no Quit and the core is not suspended (60_exceptions.md
R104). -/
theorem tickPrologue_ready {d : Time} {es : List InputEvent} {s t : State} :
    tickPrologue d es s = .ready t ↔ drained d es s = (false, t) ∧ t.suspended = false := by
  unfold tickPrologue
  rcases hd : drained d es s with ⟨_ | _, u⟩
  · by_cases hu : u.suspended
    · simp only [hu, if_true, reduceCtorEq, Prod.mk.injEq, true_and, false_iff]
      rintro ⟨rfl, h⟩
      simp [hu] at h
    · simp only [hu, Bool.false_eq_true, if_false, Prologue.ready.injEq, Prod.mk.injEq, true_and]
      constructor
      · rintro rfl
        exact ⟨rfl, by simpa using hu⟩
      · exact fun h => h.1
  · simp

/-- Everything that can end a Tick before its execute step: a Quit, or a wait that goes on (60_exceptions.md R104,
R107). -/
theorem tickPrologue_halted {d : Time} {es : List InputEvent} {s t : State} (h : tickPrologue d es s = .halted t) :
    ((drained d es s).1 = true ∧ t = stop .quit (drained d es s).2) ∨
      ((drained d es s).1 = false ∧ (drained d es s).2.suspended = true ∧ t = (drained d es s).2) := by
  unfold tickPrologue at h
  rcases hd : drained d es s with ⟨_ | _, u⟩
  · simp only [hd] at h
    by_cases hu : u.suspended
    · simp only [hu, if_true, Prologue.halted.injEq] at h
      exact .inr ⟨rfl, hu, h.symm⟩
    · simp [hu] at h
  · simp only [hd, Prologue.halted.injEq] at h
    exact .inl ⟨rfl, h.symm⟩

end Sys2Proof.Machine
end

