-- ==== Sys2Proof/Laws/PerInstr.lean ====
section
/-!
SUPPORT. Statements made once per instruction. `MatchesTable`: the word of every instruction has the fixed bits that the
opcode table gives its row (30_encoding.md R53, opcode_table.json).
-/
namespace Sys2Proof.Laws

/-- A row's mask: the bits the opcode table fixes. -/
def tableMask : Instr → Word
  | .sys _ => 0xF000#16
  | .cls => 0xFFFF#16
  | .ret => 0xFFFF#16
  | .jp _ => 0xF000#16
  | .jpV0 _ => 0xF000#16
  | .call _ => 0xF000#16
  | .seByte _ _ => 0xF000#16
  | .sneByte _ _ => 0xF000#16
  | .seReg _ _ => 0xF00F#16
  | .sneReg _ _ => 0xF00F#16
  | .ldByte _ _ => 0xF000#16
  | .addByte _ _ => 0xF000#16
  | .ldReg _ _ => 0xF00F#16
  | .orReg _ _ => 0xF00F#16
  | .andReg _ _ => 0xF00F#16
  | .xorReg _ _ => 0xF00F#16
  | .addReg _ _ => 0xF00F#16
  | .subReg _ _ => 0xF00F#16
  | .subnReg _ _ => 0xF00F#16
  | .shr _ _ => 0xF00F#16
  | .shl _ _ => 0xF00F#16
  | .rnd _ _ => 0xF000#16
  | .drw _ _ _ => 0xF000#16
  | .skp _ => 0xF0FF#16
  | .sknp _ => 0xF0FF#16
  | .ldVxDT _ => 0xF0FF#16
  | .ldVxK _ => 0xF0FF#16
  | .ldDTVx _ => 0xF0FF#16
  | .ldSTVx _ => 0xF0FF#16
  | .ldI _ => 0xF000#16
  | .addI _ => 0xF0FF#16
  | .ldF _ => 0xF0FF#16
  | .ldB _ => 0xF0FF#16
  | .storeRegs _ => 0xF0FF#16
  | .loadRegs _ => 0xF0FF#16

/-- A row's match: the values of the bits the opcode table fixes. -/
def tableMatch : Instr → Word
  | .sys _ => 0x0000#16
  | .cls => 0x00E0#16
  | .ret => 0x00EE#16
  | .jp _ => 0x1000#16
  | .jpV0 _ => 0xB000#16
  | .call _ => 0x2000#16
  | .seByte _ _ => 0x3000#16
  | .sneByte _ _ => 0x4000#16
  | .seReg _ _ => 0x5000#16
  | .sneReg _ _ => 0x9000#16
  | .ldByte _ _ => 0x6000#16
  | .addByte _ _ => 0x7000#16
  | .ldReg _ _ => 0x8000#16
  | .orReg _ _ => 0x8001#16
  | .andReg _ _ => 0x8002#16
  | .xorReg _ _ => 0x8003#16
  | .addReg _ _ => 0x8004#16
  | .subReg _ _ => 0x8005#16
  | .subnReg _ _ => 0x8007#16
  | .shr _ _ => 0x8006#16
  | .shl _ _ => 0x800E#16
  | .rnd _ _ => 0xC000#16
  | .drw _ _ _ => 0xD000#16
  | .skp _ => 0xE09E#16
  | .sknp _ => 0xE0A1#16
  | .ldVxDT _ => 0xF007#16
  | .ldVxK _ => 0xF00A#16
  | .ldDTVx _ => 0xF015#16
  | .ldSTVx _ => 0xF018#16
  | .ldI _ => 0xA000#16
  | .addI _ => 0xF01E#16
  | .ldF _ => 0xF029#16
  | .ldB _ => 0xF033#16
  | .storeRegs _ => 0xF055#16
  | .loadRegs _ => 0xF065#16

theorem wordXKK_and_F000 (f : BitVec 4) (x : Reg) (kk : Byte) :
    wordXKK f x kk &&& 0xF000#16 = wordXKK f 0 0#8 := by
  apply BitVec.eq_of_getLsbD_eq
  intro k hk
  rw [BitVec.getLsbD_and, getLsbD_wordXKK, getLsbD_wordXKK]
  interval_cases k <;> simp

theorem wordXKK_and_F0FF (f : BitVec 4) (x : Reg) (kk : Byte) :
    wordXKK f x kk &&& 0xF0FF#16 = wordXKK f 0 kk := by
  apply BitVec.eq_of_getLsbD_eq
  intro k hk
  rw [BitVec.getLsbD_and, getLsbD_wordXKK, getLsbD_wordXKK]
  interval_cases k <;> simp

theorem wordXYN_and_F000 (f : BitVec 4) (x y : Reg) (n : BitVec 4) :
    wordXYN f x y n &&& 0xF000#16 = wordXYN f 0 0 0#4 := by
  apply BitVec.eq_of_getLsbD_eq
  intro k hk
  rw [BitVec.getLsbD_and, getLsbD_wordXYN, getLsbD_wordXYN]
  interval_cases k <;> simp

theorem wordXYN_and_F00F (f : BitVec 4) (x y : Reg) (n : BitVec 4) :
    wordXYN f x y n &&& 0xF00F#16 = wordXYN f 0 0 n := by
  apply BitVec.eq_of_getLsbD_eq
  intro k hk
  rw [BitVec.getLsbD_and, getLsbD_wordXYN, getLsbD_wordXYN]
  interval_cases k <;> simp

theorem wordNNN_and_F000 (f : BitVec 4) (a : Addr12) : wordNNN f a &&& 0xF000#16 = wordNNN f 0#12 := by
  apply BitVec.eq_of_getLsbD_eq
  intro k hk
  rw [BitVec.getLsbD_and, getLsbD_wordNNN, getLsbD_wordNNN]
  interval_cases k <;> simp

/-- The word of the instruction matches its row of the opcode table. -/
def MatchesTable.Statement (i : Instr) : Prop := encode i &&& tableMask i = tableMatch i

theorem MatchesTable.sys (nnn : Addr12) : MatchesTable.Statement (.sys nnn) := 
  (wordNNN_and_F000 ..).trans (by show _ = 0x0000#16; decide)
theorem MatchesTable.cls : MatchesTable.Statement .cls := by unfold MatchesTable.Statement; decide
theorem MatchesTable.ret : MatchesTable.Statement .ret := by unfold MatchesTable.Statement; decide
theorem MatchesTable.jp (nnn : Addr12) : MatchesTable.Statement (.jp nnn) := 
  (wordNNN_and_F000 ..).trans (by show _ = 0x1000#16; decide)
theorem MatchesTable.jpV0 (nnn : Addr12) : MatchesTable.Statement (.jpV0 nnn) := 
  (wordNNN_and_F000 ..).trans (by show _ = 0xB000#16; decide)
theorem MatchesTable.call (nnn : Addr12) : MatchesTable.Statement (.call nnn) := 
  (wordNNN_and_F000 ..).trans (by show _ = 0x2000#16; decide)
theorem MatchesTable.seByte (x : Reg) (kk : Byte) : MatchesTable.Statement (.seByte x kk) := 
  (wordXKK_and_F000 ..).trans (by show _ = 0x3000#16; decide)
theorem MatchesTable.sneByte (x : Reg) (kk : Byte) : MatchesTable.Statement (.sneByte x kk) := 
  (wordXKK_and_F000 ..).trans (by show _ = 0x4000#16; decide)
theorem MatchesTable.seReg (x y : Reg) : MatchesTable.Statement (.seReg x y) := 
  (wordXYN_and_F00F ..).trans (by show _ = 0x5000#16; decide)
theorem MatchesTable.sneReg (x y : Reg) : MatchesTable.Statement (.sneReg x y) := 
  (wordXYN_and_F00F ..).trans (by show _ = 0x9000#16; decide)
theorem MatchesTable.ldByte (x : Reg) (kk : Byte) : MatchesTable.Statement (.ldByte x kk) := 
  (wordXKK_and_F000 ..).trans (by show _ = 0x6000#16; decide)
theorem MatchesTable.addByte (x : Reg) (kk : Byte) : MatchesTable.Statement (.addByte x kk) := 
  (wordXKK_and_F000 ..).trans (by show _ = 0x7000#16; decide)
theorem MatchesTable.ldReg (x y : Reg) : MatchesTable.Statement (.ldReg x y) := 
  (wordXYN_and_F00F ..).trans (by show _ = 0x8000#16; decide)
theorem MatchesTable.orReg (x y : Reg) : MatchesTable.Statement (.orReg x y) := 
  (wordXYN_and_F00F ..).trans (by show _ = 0x8001#16; decide)
theorem MatchesTable.andReg (x y : Reg) : MatchesTable.Statement (.andReg x y) := 
  (wordXYN_and_F00F ..).trans (by show _ = 0x8002#16; decide)
theorem MatchesTable.xorReg (x y : Reg) : MatchesTable.Statement (.xorReg x y) := 
  (wordXYN_and_F00F ..).trans (by show _ = 0x8003#16; decide)
theorem MatchesTable.addReg (x y : Reg) : MatchesTable.Statement (.addReg x y) := 
  (wordXYN_and_F00F ..).trans (by show _ = 0x8004#16; decide)
theorem MatchesTable.subReg (x y : Reg) : MatchesTable.Statement (.subReg x y) := 
  (wordXYN_and_F00F ..).trans (by show _ = 0x8005#16; decide)
theorem MatchesTable.subnReg (x y : Reg) : MatchesTable.Statement (.subnReg x y) := 
  (wordXYN_and_F00F ..).trans (by show _ = 0x8007#16; decide)
theorem MatchesTable.shr (x y : Reg) : MatchesTable.Statement (.shr x y) := 
  (wordXYN_and_F00F ..).trans (by show _ = 0x8006#16; decide)
theorem MatchesTable.shl (x y : Reg) : MatchesTable.Statement (.shl x y) := 
  (wordXYN_and_F00F ..).trans (by show _ = 0x800E#16; decide)
theorem MatchesTable.rnd (x : Reg) (kk : Byte) : MatchesTable.Statement (.rnd x kk) := 
  (wordXKK_and_F000 ..).trans (by show _ = 0xC000#16; decide)
theorem MatchesTable.drw (x y : Reg) (n : BitVec 4) : MatchesTable.Statement (.drw x y n) := 
  (wordXYN_and_F000 ..).trans (by show _ = 0xD000#16; decide)
theorem MatchesTable.skp (x : Reg) : MatchesTable.Statement (.skp x) := 
  (wordXKK_and_F0FF ..).trans (by show _ = 0xE09E#16; decide)
theorem MatchesTable.sknp (x : Reg) : MatchesTable.Statement (.sknp x) := 
  (wordXKK_and_F0FF ..).trans (by show _ = 0xE0A1#16; decide)
theorem MatchesTable.ldVxDT (x : Reg) : MatchesTable.Statement (.ldVxDT x) := 
  (wordXKK_and_F0FF ..).trans (by show _ = 0xF007#16; decide)
theorem MatchesTable.ldVxK (x : Reg) : MatchesTable.Statement (.ldVxK x) := 
  (wordXKK_and_F0FF ..).trans (by show _ = 0xF00A#16; decide)
theorem MatchesTable.ldDTVx (x : Reg) : MatchesTable.Statement (.ldDTVx x) := 
  (wordXKK_and_F0FF ..).trans (by show _ = 0xF015#16; decide)
theorem MatchesTable.ldSTVx (x : Reg) : MatchesTable.Statement (.ldSTVx x) := 
  (wordXKK_and_F0FF ..).trans (by show _ = 0xF018#16; decide)
theorem MatchesTable.ldI (nnn : Addr12) : MatchesTable.Statement (.ldI nnn) := 
  (wordNNN_and_F000 ..).trans (by show _ = 0xA000#16; decide)
theorem MatchesTable.addI (x : Reg) : MatchesTable.Statement (.addI x) := 
  (wordXKK_and_F0FF ..).trans (by show _ = 0xF01E#16; decide)
theorem MatchesTable.ldF (x : Reg) : MatchesTable.Statement (.ldF x) := 
  (wordXKK_and_F0FF ..).trans (by show _ = 0xF029#16; decide)
theorem MatchesTable.ldB (x : Reg) : MatchesTable.Statement (.ldB x) := 
  (wordXKK_and_F0FF ..).trans (by show _ = 0xF033#16; decide)
theorem MatchesTable.storeRegs (x : Reg) : MatchesTable.Statement (.storeRegs x) := 
  (wordXKK_and_F0FF ..).trans (by show _ = 0xF055#16; decide)
theorem MatchesTable.loadRegs (x : Reg) : MatchesTable.Statement (.loadRegs x) := 
  (wordXKK_and_F0FF ..).trans (by show _ = 0xF065#16; decide)

end Sys2Proof.Laws
end

