-- ==== Sys2Proof/Laws/Step.lean ====
section
/-!
SUPPORT. What one step can do, said once; every claim about all steps starts from it.
-/
namespace Sys2Proof.Machine

/-- What a Tick can come to: a Quit, a wait that goes on, a reserved word, or one instruction (60_exceptions.md R104).
-/
theorem tick_next {d : Time} {es : List InputEvent} {s t : State} (h : tick d es s = .next t) :
    s.run = .active ∧
      (((drained d es s).1 = true ∧ t = stop .quit (drained d es s).2) ∨
        ((drained d es s).1 = false ∧ (drained d es s).2.suspended = true ∧ t = (drained d es s).2) ∨
        ((drained d es s).1 = false ∧ (drained d es s).2.suspended = false ∧
          executeStep (drained d es s).2 = .next t)) := by
  obtain ⟨hr, h⟩ := whenActive_next.1 h
  refine ⟨hr, ?_⟩
  rcases hp : tickPrologue d es s with u | u <;> rw [hp] at h
  · cases h
    exact (tickPrologue_halted hp).imp_right .inl
  · obtain ⟨hd, hw⟩ := tickPrologue_ready.1 hp
    exact .inr (.inr (by simpa [hd] using And.intro hw h))

/-- What one step can do, by the Host's action; only a hard reset leads on from a stop (60_exceptions.md R110, R126). -/
theorem step_cases {s t : State} (h : step s = .next t) :
    (∃ d es, hostAction s = .tick d es ∧ s.run = .active ∧ tick d es (takeAction s) = .next t) ∨
      (hostAction s = .hardReset ∧ t = hardReset (takeAction s)) ∨
      (∃ bytes, hostAction s = .loadProgram bytes ∧ s.run = .active ∧ t = loadProgram bytes (takeAction s)) ∨
      (∃ b, hostAction s = .setDoWrap b ∧ s.run = .active ∧ t = setDoWrap b (takeAction s)) := by
  unfold step perform at h
  rcases ha : hostAction s with ⟨d, es⟩ | _ | bytes | b <;> simp only [ha] at h
  · exact .inl ⟨d, es, rfl, (tick_next h).1, h⟩
  · exact .inr (.inl ⟨rfl, by simpa using h.symm⟩)
  · obtain ⟨hr, h⟩ := whenActive_next.1 h
    exact .inr (.inr (.inl ⟨bytes, rfl, hr, by simpa using h.symm⟩))
  · obtain ⟨hr, h⟩ := whenActive_next.1 h
    exact .inr (.inr (.inr ⟨b, rfl, hr, by simpa using h.symm⟩))

theorem skipIf_withAgentsOf (p s : State) (c : Bool) :
    skipIf c (withAgentsOf p s) = withAgentsOf p (skipIf c s) := by cases c <;> rfl

theorem writeBytes_withAgentsOf (p : State) : ∀ (us : List Byte) (a : Nat) (s : State),
    writeBytes a us (withAgentsOf p s) = withAgentsOf p (writeBytes a us s)
  | [], _, _ => rfl
  | u :: us, a, s => writeBytes_withAgentsOf p us (a + 1) (writeByte a u s)

/-- The core shares no state with another agent but through the ports (60_exceptions.md R129): an instruction that calls
none neither reads nor changes what belongs to the collaborators and the Host. -/
theorem exec_without_port {i : Instr} {s t : State} (p : State) (hi : callsPort i = false) (h : exec i s = .next t) :
    exec i (withAgentsOf p s) = .next (withAgentsOf p t) := by
  cases i
  case cls | rnd | drw | skp | sknp => cases hi
  case ret =>
    simp only [exec, execRet] at h ⊢
    split at h <;> cases h <;> split <;> first | rfl | contradiction
  case call =>
    simp only [exec, execCall] at h ⊢
    split at h <;> cases h <;> split <;> first | rfl | contradiction
  case seByte x kk => cases h; exact congrArg (finish _) (skipIf_withAgentsOf p s _)
  case sneByte x kk => cases h; exact congrArg (finish _) (skipIf_withAgentsOf p s _)
  case seReg x y => cases h; exact congrArg (finish _) (skipIf_withAgentsOf p s _)
  case sneReg x y => cases h; exact congrArg (finish _) (skipIf_withAgentsOf p s _)
  case storeRegs x => cases h; exact congrArg (finish _) (writeBytes_withAgentsOf p _ _ s)
  all_goals cases h; rfl

end Sys2Proof.Machine
end

