-- ==== Sys2Proof/Tests/Slice0.lean ====
section
/-!
SUPPORT. Tests of single steps against the vectors of 95_test_vectors.md and the examples of the rules, and one witness
per statement that has hypotheses. Expected values are the spec's.
-/
namespace Sys2Proof.Tests

open Sys2Proof Sys2Proof.Machine

/-! ## Well-formedness -/

/-- Ill-formed: the operand of SYS is that of CLS or RET (30_encoding.md R57). -/
theorem test_sys_with_operand_of_cls_is_ill_formed : (Instr.sys 0x0E0#12).wellFormed = false := by decide
theorem test_sys_with_operand_of_ret_is_ill_formed : (Instr.sys 0x0EE#12).wellFormed = false := by decide
theorem test_sys_next_to_cls_is_well_formed : (Instr.sys 0x1E0#12).wellFormed = true := by decide

/-! ## Decoding: one word of every constructor, written out from 30_encoding.md R53 -/

theorem test_decode_sys : decode 0b0000_000100100011#16 = .instr (.sys 0x123#12) := by decide
theorem test_decode_cls : decode 0b0000_0000_1110_0000#16 = .instr .cls := by decide
theorem test_decode_ret : decode 0b0000_0000_1110_1110#16 = .instr .ret := by decide
theorem test_decode_jp : decode 0b0001_001000100000#16 = .instr (.jp 0x220#12) := by decide
theorem test_decode_call : decode 0b0010_001000010000#16 = .instr (.call 0x210#12) := by decide
theorem test_decode_seByte : decode 0b0011_1010_01000010#16 = .instr (.seByte 10 0x42#8) := by decide
theorem test_decode_sneByte : decode 0b0100_1111_00000001#16 = .instr (.sneByte 15 0x01#8) := by decide
theorem test_decode_seReg : decode 0b0101_0001_0010_0000#16 = .instr (.seReg 1 2) := by decide
theorem test_decode_ldByte : decode 0b0110_1010_00111100#16 = .instr (.ldByte 10 0x3C#8) := by decide
theorem test_decode_addByte : decode 0b0111_0001_11111111#16 = .instr (.addByte 1 0xFF#8) := by decide
theorem test_decode_ldReg : decode 0b1000_0001_0010_0000#16 = .instr (.ldReg 1 2) := by decide
theorem test_decode_orReg : decode 0b1000_0001_0010_0001#16 = .instr (.orReg 1 2) := by decide
theorem test_decode_andReg : decode 0b1000_0001_0010_0010#16 = .instr (.andReg 1 2) := by decide
theorem test_decode_xorReg : decode 0b1000_0001_0010_0011#16 = .instr (.xorReg 1 2) := by decide
theorem test_decode_addReg : decode 0b1000_0001_0010_0100#16 = .instr (.addReg 1 2) := by decide
theorem test_decode_subReg : decode 0b1000_0001_0010_0101#16 = .instr (.subReg 1 2) := by decide
theorem test_decode_shr : decode 0b1000_0010_0001_0110#16 = .instr (.shr 2 1) := by decide
theorem test_decode_subnReg : decode 0b1000_0001_0010_0111#16 = .instr (.subnReg 1 2) := by decide
theorem test_decode_shl : decode 0b1000_0011_0001_1110#16 = .instr (.shl 3 1) := by decide
theorem test_decode_sneReg : decode 0b1001_0001_0010_0000#16 = .instr (.sneReg 1 2) := by decide
theorem test_decode_ldI : decode 0b1010_001100000000#16 = .instr (.ldI 0x300#12) := by decide
theorem test_decode_jpV0 : decode 0b1011_001100000000#16 = .instr (.jpV0 0x300#12) := by decide
theorem test_decode_rnd : decode 0b1100_0001_00001111#16 = .instr (.rnd 1 0x0F#8) := by decide
theorem test_decode_drw : decode 0b1101_0001_0010_0101#16 = .instr (.drw 1 2 5#4) := by decide
theorem test_decode_skp : decode 0b1110_0101_10011110#16 = .instr (.skp 5) := by decide
theorem test_decode_sknp : decode 0b1110_0101_10100001#16 = .instr (.sknp 5) := by decide
theorem test_decode_ldVxDT : decode 0b1111_1100_00000111#16 = .instr (.ldVxDT 12) := by decide
theorem test_decode_ldVxK : decode 0b1111_1011_00001010#16 = .instr (.ldVxK 11) := by decide
theorem test_decode_ldDTVx : decode 0b1111_1010_00010101#16 = .instr (.ldDTVx 10) := by decide
theorem test_decode_ldSTVx : decode 0b1111_0001_00011000#16 = .instr (.ldSTVx 1) := by decide
theorem test_decode_addI : decode 0b1111_0010_00011110#16 = .instr (.addI 2) := by decide
theorem test_decode_ldF : decode 0b1111_1010_00101001#16 = .instr (.ldF 10) := by decide
theorem test_decode_ldB : decode 0b1111_0001_00110011#16 = .instr (.ldB 1) := by decide
theorem test_decode_storeRegs : decode 0b1111_0001_01010101#16 = .instr (.storeRegs 1) := by decide
theorem test_decode_loadRegs : decode 0b1111_0010_01100101#16 = .instr (.loadRegs 2) := by decide

/-- Vectors FL23, FL25, AL25, DI12, TM5. -/
theorem test_reserved_words :
    decode 0x5121#16 = .reserved 0x5121#16 ∧ decode 0x912F#16 = .reserved 0x912F#16 ∧
      decode 0x8128#16 = .reserved 0x8128#16 ∧ decode 0xE19F#16 = .reserved 0xE19F#16 ∧
      decode 0xF100#16 = .reserved 0xF100#16 := by decide
theorem test_table_word : decodeTableWord 16 0xD125 = some (.drw 1 2 5#4) := by decide

/-! ## One step on a small state -/

/-- The state after reset with the word `w` at PC, changed by `f` before the word is placed. -/
def start (w : Nat) (f : State → State) : State := (f State.reset).withFetchWord 16 w

/-- What a step leaves, where it answers a next state. -/
def after (s : State) : State :=
  match step s with
  | .next t => t
  | .fault _ => s
  | .refused _ => s

/-- Sets registers, from V0 on. -/
def regs (us : List Byte) (s : State) : State := { s with v := Vector.ofFn fun r : Fin 16 => (us[r.val]?).getD 0#8 }

-- FL1, RS2
theorem test_sys : (after State.reset).run = .stopped (.notImplemented 0x0000#16) ∧ (after State.reset).pc = 0x200#16 := by
  decide
-- FL4
theorem test_cls : (after (start 0x00E0 id)).calls = [.clearScreen, .clearScreen] ∧
    (after (start 0x00E0 id)).pc = 0x202#16 := by decide
-- FL5
theorem test_ret : let t := after (start 0x00EE fun s => { pushStack 0#8 0x204#16 s with pc := 0x212#16 })
    t.pc = 0x206#16 ∧ t.sp = 0xFF#8 := by decide
-- FL7
theorem test_ret_overflow : (after (start 0x00EE fun s => { s with sp := 0xFE#8 })).run =
    .stopped (.stackOverflow 0xFE#8) := by decide
-- FL10
theorem test_jp : (after (start 0x1220 id)).pc = 0x220#16 := by decide
-- FL13
theorem test_jpV0 : (after (start 0xBFFF (regs [0xFF#8]))).pc = 0x1100#16 := by decide
-- FL15
theorem test_call : let t := after (start 0x2400 fun s => { s with sp := 0x0E#8 })
    t.pc = 0x400#16 ∧ t.sp = 0x0F#8 ∧ t.stack[15] = 0x200#16 := by decide
-- FL17
theorem test_call_corrupted_sp : let t := after (start 0x2400 fun s => { s with sp := 0xFE#8 })
    t.sp = 0x00#8 ∧ t.stack[0] = 0x200#16 := by decide
-- FL18
theorem test_seByte : (after (start 0x3142 (regs [0#8, 0x42#8]))).pc = 0x204#16 := by decide
-- FL26
theorem test_seByte_top : (after (start 0x3000 fun s => { s with pc := 0xFFE#16 })).pc = 0x1002#16 := by decide
-- FL21
theorem test_sneByte : (after (start 0x4142 (regs [0#8, 0x42#8]))).pc = 0x202#16 := by decide
-- FL22
theorem test_seReg : (after (start 0x5120 (regs [0#8, 7#8, 7#8]))).pc = 0x204#16 := by decide
-- FL24
theorem test_sneReg : (after (start 0x9120 (regs [0#8, 7#8, 8#8]))).pc = 0x204#16 := by decide
-- AL1
theorem test_ldByte : readReg 10 (after (start 0x6A5C id)) = 0x5C#8 := by decide
-- AL2
theorem test_addByte : let t := after (start 0x71FF fun s => writeReg vf 1#8 (regs [0#8, 2#8] s))
    readReg 1 t = 1#8 ∧ readReg vf t = 1#8 := by decide
-- AL3
theorem test_ldReg : readReg 1 (after (start 0x8120 (regs [0#8, 0#8, 0x99#8]))) = 0x99#8 := by decide
-- AL4
theorem test_orReg : let t := after (start 0x8121 fun s => writeReg vf 0x55#8 (regs [0#8, 0xF0#8, 0x0F#8] s))
    readReg 1 t = 0xFF#8 ∧ readReg vf t = 0x55#8 := by decide
-- AL5
theorem test_andReg : readReg 1 (after (start 0x8122 (regs [0#8, 0xF3#8, 0x3F#8]))) = 0x33#8 := by decide
-- AL6
theorem test_xorReg : readReg 1 (after (start 0x8123 (regs [0#8, 0xFF#8, 0x0F#8]))) = 0xF0#8 := by decide
-- AL7
theorem test_addReg : let t := after (start 0x8014 (regs [0xFF#8, 1#8]))
    readReg 0 t = 0#8 ∧ readReg vf t = 1#8 := by decide
-- AL9
theorem test_addReg_vf : readReg vf (after (start 0x8F14 fun s => writeReg vf 0xFF#8 (regs [0#8, 1#8] s))) = 0#8 := by
  decide
-- AL14
theorem test_subReg : let t := after (start 0x8015 (regs [5#8, 0x0F#8]))
    readReg 0 t = 0xF6#8 ∧ readReg vf t = 0#8 := by decide
-- AL13
theorem test_subReg_equal : readReg vf (after (start 0x8015 (regs [5#8, 5#8]))) = 0#8 := by decide
-- AL16
theorem test_subnReg : let t := after (start 0x8017 (regs [5#8, 0x0F#8]))
    readReg 0 t = 0x0A#8 ∧ readReg vf t = 1#8 := by decide
-- AL19
theorem test_shr : let t := after (start 0x8126 (regs [0#8, 0x55#8, 0xFF#8]))
    readReg 1 t = 0x2A#8 ∧ readReg vf t = 1#8 ∧ readReg 2 t = 0xFF#8 := by decide
-- AL21
theorem test_shr_vf : readReg vf (after (start 0x8F06 (writeReg vf 3#8))) = 1#8 := by decide
-- AL22
theorem test_shl : let t := after (start 0x812E (regs [0#8, 0x81#8]))
    readReg 1 t = 2#8 ∧ readReg vf t = 1#8 := by decide
-- AL27
theorem test_rnd : readReg 3 (after (start 0xC30F fun s => { s with randomTape := [0xAB#8] })) = 0x0B#8 := by decide
-- DI1
theorem test_drw : let t := after (start 0xD125 fun s =>
      { regs [0#8, 0x3E#8, 0x1F#8] s with drawTape := [⟨true, 0⟩] })
    t.calls.head? = some (.draw 62#8 31#8 [0xF0#8, 0x90#8, 0x90#8, 0x90#8, 0xF0#8] 5#8 false) ∧
      readReg vf t = 1#8 ∧ t.pc = 0x202#16 := by decide
-- DI5
theorem test_drw_error : let t := after (start 0xD125 fun s => { s with drawTape := [⟨true, 3⟩] })
    t.run = .stopped (.error 3) ∧ readReg vf t = 0#8 ∧ t.pc = 0x200#16 := by decide
-- DI7
theorem test_skp : let t := after (start 0xE19E fun s => { regs [0#8, 7#8] s with keyTape := [true] })
    t.pc = 0x204#16 ∧ t.calls.head? = some (.isKeyPressed 7#8) := by decide
-- DI10
theorem test_sknp : (after (start 0xE1A1 fun s => { regs [0#8, 7#8] s with keyTape := [true] })).pc = 0x202#16 := by
  decide
-- TM1
theorem test_ldVxDT : readReg 12 (after (start 0xFC07 fun s => { s with dt := 0x39#8 })) = 0x39#8 := by decide
-- TM2
theorem test_ldVxK : let t := after (start 0xFB0A fun s => { s with pc := 0x204#16 })
    t.suspended = true ∧ t.waitReg = 11 ∧ t.pc = 0x204#16 := by decide
-- TM3
theorem test_ldDTVx : let t := after (start 0xF015 fun s => { regs [0x3C#8] s with accDT := 500000000000 })
    t.dt = 0x3C#8 ∧ t.accDT = 0 := by decide
-- TM4
theorem test_ldSTVx : let t := after (start 0xF018 fun s => { regs [5#8] s with accST := 500000000000 })
    t.st = 5#8 ∧ t.accST = 0 := by decide
-- IX1
theorem test_ldI : (after (start 0xA300 id)).i = 0x300#16 := by decide
-- IX3
theorem test_addI : let t := after (start 0xF21E fun s => { writeReg vf 0x77#8 (regs [0#8, 0#8, 1#8] s) with i := 0xFFFF#16 })
    t.i = 0#16 ∧ readReg vf t = 0x77#8 := by decide
-- IX5
theorem test_ldF : (after (start 0xF029 (regs [0x10#8]))).i = 0x050#16 := by decide
-- IX7
theorem test_ldB : let t := after (start 0xF033 fun s => { regs [0xFF#8] s with i := 0xFFE#16 })
    readByte 0xFFE t = 2#8 ∧ readByte 0xFFF t = 5#8 ∧ readByte 0 t = 5#8 := by decide
-- IX8: a byte set back to its reset value leaves no entry
theorem test_ldB_zero : let t := after (start 0xF033 fun s => { writeBytes 0x300 [9#8, 9#8, 9#8] s with i := 0x300#16 })
    t.mem = [(0x200, 0xF0#8), (0x201, 0x33#8)] := by decide
-- IX9
theorem test_storeRegs : let t := after (start 0xF155 fun s => { regs [0x11#8, 0x22#8, 0x33#8] s with i := 0x300#16 })
    readByte 0x300 t = 0x11#8 ∧ readByte 0x301 t = 0x22#8 ∧ readByte 0x302 t = 0#8 ∧ t.i = 0x300#16 := by decide
-- IX11
theorem test_loadRegs : let t := after (start 0xF265 fun s =>
      { writeBytes 0x300 [2#8, 1#8, 6#8, 9#8] s with i := 0x300#16 })
    readReg 0 t = 2#8 ∧ readReg 1 t = 1#8 ∧ readReg 2 t = 6#8 ∧ readReg 3 t = 0#8 := by decide

/-! ## The Tick, the Host and the reference Renderer -/

/-- The start of TK8 to TK10: suspended at 0x204 with Fx0A and `LD V3, 09` in memory. -/
def waiting (events : List InputEvent) : State :=
  { writeBytes 0x204 [0xF2#8, 0x0A#8, 0x63#8, 0x09#8] State.reset with
    pc := 0x204#16, suspended := true, waitReg := 2, script := [.tick 0 events] }

-- TK1 and TK3: one period, then three of which two stay in the accumulator
theorem test_timers : timerAfter 1#8 0 Config.timerPeriod = 0#8 ∧ accAfter 0 Config.timerPeriod = 0 ∧
    timerAfter 5#8 0 (3 * Config.timerPeriod) = 4#8 ∧
    accAfter 0 (3 * Config.timerPeriod) = 2 * Config.timerPeriod := by decide
-- TK5
theorem test_quit : let t := after { start 0x6001 id with script := [.tick 0 [.quit]] }
    t.run = .stopped .quit ∧ readReg 0 t = 0#8 ∧ t.pc = 0x200#16 := by decide
-- TK6
theorem test_key_while_running : let t := after { start 0x6001 id with script := [.tick 0 [.keyDown 3]] }
    readReg 0 t = 1#8 ∧ t.pc = 0x202#16 := by decide
-- TK8
theorem test_wait_goes_on : let t := after (waiting [])
    t.suspended = true ∧ t.pc = 0x204#16 ∧ t.run = .active := by decide
-- TK9
theorem test_resume : let t := after (waiting [.keyDown 3, .keyDown 5])
    readReg 2 t = 3#8 ∧ t.suspended = false ∧ readReg 3 t = 9#8 ∧ t.pc = 0x208#16 := by decide
-- TK10
theorem test_resume_then_quit : let t := after (waiting [.keyDown 3, .quit])
    readReg 2 t = 3#8 ∧ readReg 3 t = 0#8 ∧ t.pc = 0x206#16 ∧ t.run = .stopped .quit := by decide
-- RS1
theorem test_hard_reset : let t := after { stop (.stackOverflow 0x0F#8) (writeByte 0x300 0x55#8 State.reset) with
      sp := 0x0F#8, doWrap := true, script := [.hardReset] }
    t.sp = 0xFF#8 ∧ t.run = .active ∧ t.mem = [] ∧ t.doWrap = true := by decide
-- R125 of 60_exceptions.md
theorem test_load_program : let t := after { State.reset with script := [.loadProgram [0x12#8, 0x20#8]] }
    t.mem = [(0x200, 0x12#8), (0x201, 0x20#8)] ∧ t.pc = 0x200#16 := by decide
-- R110 of 60_exceptions.md
theorem test_stop_is_terminal : let s := stop .quit State.reset
    step { s with script := [.loadProgram [0x12#8]] } = .refused .hostActionAfterStop ∧
      step { s with script := [.setDoWrap true] } = .refused .hostActionAfterStop := ⟨rfl, rfl⟩
-- R27 of 10_state.md
theorem test_set_doWrap : (after { State.reset with script := [.setDoWrap true] }).doWrap = true := by decide
-- RR2 and RR3
theorem test_renderer_wraps : let r := referenceDraw 62#8 31#8 [0xF0#8] true State.reset.fb
    r.1 = false ∧ pixel 62 31 r.2 = true ∧ pixel 1 31 r.2 = true ∧ pixel 2 31 r.2 = false ∧
      (referenceDraw 62#8 31#8 [0x80#8] true r.2).1 = true := by decide
-- RR1
theorem test_renderer_clips : let r := referenceDraw 62#8 31#8 [0xF0#8] false State.reset.fb
    pixel 63 31 r.2 = true ∧ pixel 0 31 r.2 = false := by decide

/-! ## Witnesses: the hypotheses of each statement can be met -/

/-- An instruction's meaning answers a next state. -/
def answers (i : Instr) (s : State) : Bool :=
  match exec i s with
  | .next _ => true
  | .fault _ => false
  | .refused _ => false

/-- A step answers a next state. -/
def stepAnswers (s : State) : Bool :=
  match step s with
  | .next _ => true
  | .fault _ => false
  | .refused _ => false

theorem witness_DecodeOfEncodeIsIdentity : (Instr.drw 15 0 15#4).wellFormed = true := by decide
theorem witness_EncodeOfDecodeIsIdentity : decode 0x812E#16 = .instr (.shl 1 2) := by decide
theorem witness_ReservedWordsAreUnknownSubOpcodes :
    decode 0x500F#16 = .reserved 0x500F#16 ∧ decode 0x800D#16 = .reserved 0x800D#16 ∧
      decode 0x9001#16 = .reserved 0x9001#16 ∧ decode 0xE000#16 = .reserved 0xE000#16 ∧
      decode 0xF0FF#16 = .reserved 0xF0FF#16 := by decide
theorem witness_OnlyExactWordsAreClsAndRet :
    fieldF 0x01E0#16 = 0x0#4 ∧ 0x01E0#16 ≠ 0x00E0#16 ∧ 0x01E0#16 ≠ 0x00EE#16 := by decide
theorem witness_StepRunsDecodedInstruction :
    let s := start 0x6A3C id
    hostAction s = .tick 0 [] ∧ s.run = .active ∧ drained 0 [] (takeAction s) = (false, s) ∧ s.suspended = false ∧
      decodeBytes (readByte s.pc.toNat s) (readByte (s.pc + 1#16).toNat s) = .instr (.ldByte 10 0x3C#8) ∧
      ∀ e ∈ s.pending ++ [.keyDown 3, .none], e ≠ .quit := by decide
theorem witness_StepStopsOnReservedWord :
    let s := start 0x5121 id
    hostAction s = .tick 0 [] ∧ s.run = .active ∧ drained 0 [] (takeAction s) = (false, s) ∧ s.suspended = false ∧
      decodeBytes (readByte s.pc.toNat s) (readByte (s.pc + 1#16).toNat s) = .reserved 0x5121#16 := by decide
theorem witness_FailureStatusesStopTheRun : State.reset.run = .active ∧ Status.incrementPC = .incrementPC := by decide
theorem witness_PlacedWordIsRunByTheNextStep :
    State.reset.mem.wf ∧ decodeTableWord 16 0x00E0 = some .cls := by decide
theorem witness_FetchIsBigEndianAndWraps : { State.reset with pc := 0xFFF#16 }.pc.toNat % 0x1000 = 0xFFF := by decide
theorem witness_OnlyHardResetLeavesAStop :
    let s := stop .quit State.reset
    s.run = .stopped .quit ∧ hostAction s ≠ .hardReset ∧
      hostAction { s with script := [.loadProgram []] } ≠ .hardReset ∧
      hostAction { s with script := [.setDoWrap true] } ≠ .hardReset ∧
      stepAnswers { s with script := [.hardReset] } = true := by decide
theorem witness_StepKeepsLegalState : Inv (start 0x2200 id) ∧ stepAnswers (start 0x2200 id) = true :=
  ⟨⟨by decide, by decide, trivial, fun c hc => by cases (List.mem_singleton.1 hc : c = .clearScreen); trivial⟩, by decide⟩
theorem witness_StackPointerStaysLegal : legalSP 0x0F#8 ∧ legalSP 0xFE#8 ∧ legalSP 0xFF#8 ∧
    stepAnswers (start 0x00EE fun s => { s with sp := 0xFF#8 }) = true := by decide
theorem witness_CanonicalMemoriesThatReadAlikeAreEqual :
    Memory.wf [(0x000, 0x01#8), (0xFFF, 0x81#8)] ∧
      ∀ a, memLookup a [(0x000, 0x01#8), (0xFFF, 0x81#8)] = memLookup a [(0x000, 0x01#8), (0xFFF, 0x81#8)] :=
  ⟨by decide, fun _ => rfl⟩
theorem witness_WriteChangesOneByteModuloMemorySize :
    State.reset.mem.wf ∧ 0x1FFF % 0x1000 = 0xFFF % 0x1000 ∧ 0x1000 % 0x1000 ≠ 0xFFF % 0x1000 := by decide
theorem witness_OnlyBlockStoresWriteMemory :
    (∀ x, Instr.cls ≠ .ldB x) ∧ (∀ x, Instr.cls ≠ .storeRegs x) ∧ answers .cls State.reset = true := by decide
theorem witness_SysStopsNotImplemented :
    fieldF 0x0FEE#16 = 0x0#4 ∧ fieldNNN 0x0FEE#16 ≠ 0x0E0#12 ∧ fieldNNN 0x0FEE#16 ≠ 0x0EE#12 := by decide
theorem witness_RetPopsOrOverflows :
    (0x10 ≤ (0x10#8).toNat ∧ (0x10#8).toNat ≤ 0xFE) ∧ (0x10 ≤ (0xFE#8).toNat ∧ (0xFE#8).toNat ≤ 0xFE) ∧
      (0x0F#8).toNat ≤ 0x0F ∧ (0xFF#8).toNat = 0xFF := by decide
theorem witness_JpSetsPC : fieldF 0x1FFF#16 = 0x1#4 := by decide
theorem witness_JpV0ContinuesTwoPastItsTarget : fieldF 0xBFFF#16 = 0xB#4 := by decide
theorem witness_CallPushesItsOwnAddress :
    fieldF 0x2400#16 = 0x2#4 ∧ { State.reset with sp := 15#8 }.sp = 15#8 ∧
      { State.reset with sp := 14#8 }.sp ≠ 15#8 ∧ State.reset.sp ≠ 15#8 := by decide
theorem witness_CallThenRetComesBack : (14#8).toNat ≤ 14 ∧ State.reset.sp = 0xFF#8 := by decide
theorem witness_ByteSkipsAddFourOrTwo : fieldF 0x3142#16 = 0x3#4 ∧ fieldF 0x4142#16 = 0x4#4 := by decide
theorem witness_RegisterSkipsAddFourOrTwo :
    (fieldF 0x5120#16 = 0x5#4 ∧ fieldN 0x5120#16 = 0x0#4) ∧ (fieldF 0x5121#16 = 0x5#4 ∧ fieldN 0x5121#16 ≠ 0x0#4) ∧
      (fieldF 0x9120#16 = 0x9#4 ∧ fieldN 0x9120#16 = 0x0#4) ∧
      (fieldF 0x912F#16 = 0x9#4 ∧ fieldN 0x912F#16 ≠ 0x0#4) := by decide
theorem witness_LoadsCopyIntoOneRegister :
    fieldF 0x6A5C#16 = 0x6#4 ∧ fieldF 0x8120#16 = 0x8#4 ∧ fieldN 0x8120#16 = 0x0#4 := by decide
theorem witness_AddByteWrapsWithoutCarry : fieldF 0x71FF#16 = 0x7#4 := by decide
theorem witness_LogicWorksBitByBitWithoutFlag :
    fieldF 0x8121#16 = 0x8#4 ∧ fieldN 0x8121#16 = 0x1#4 ∧ fieldN 0x8122#16 = 0x2#4 ∧ fieldN 0x8123#16 = 0x3#4 := by
  decide
theorem witness_AddSetsCarryThenResult :
    fieldF 0x8014#16 = 0x8#4 ∧ fieldN 0x8014#16 = 0x4#4 ∧ (14 : Reg) ≠ 15 := by decide
theorem witness_SubSetsStrictGreaterThenResult :
    fieldF 0x8015#16 = 0x8#4 ∧ fieldN 0x8015#16 = 0x5#4 ∧ (14 : Reg) ≠ 15 := by decide
theorem witness_SubnSetsStrictGreaterThenResult :
    fieldF 0x8017#16 = 0x8#4 ∧ fieldN 0x8017#16 = 0x7#4 ∧ (14 : Reg) ≠ 15 := by decide
theorem witness_ShiftsMoveTheLostBitToVF :
    fieldF 0x8126#16 = 0x8#4 ∧ fieldN 0x8126#16 = 0x6#4 ∧ fieldN 0x812E#16 = 0xE#4 ∧ (14 : Reg) ≠ 15 := by decide
theorem witness_RndMasksOneRandomByte :
    fieldF 0xC30F#16 = 0xC#4 ∧ { State.reset with randomTape := [0xAB#8] }.randomTape = 0xAB#8 :: [] ∧
      State.reset.randomTape = [] := by decide
theorem witness_DrwFollowsTheRenderersAnswer :
    fieldF 0xD125#16 = 0xD#4 ∧ { State.reset with drawTape := [⟨true, 0⟩] }.drawTape = ⟨true, 0⟩ :: [] ∧
      { State.reset with drawTape := [⟨true, 3⟩] }.drawTape = ⟨true, 3⟩ :: [] := by decide
theorem witness_DrwWithReferenceRendererCompletes : State.reset.drawTape = [] := by decide
theorem witness_ReferenceDrawXorsTheSprite :
    (63#8).toNat ≤ 63 ∧ (31#8).toNat ≤ 31 ∧ [0xF0#8, 0x90#8].length ≤ 15 := by decide
theorem witness_KeySkipsFollowTheKeyLevel :
    fieldF 0xE19E#16 = 0xE#4 ∧ fieldKK 0xE19E#16 = 0x9E#8 ∧ fieldKK 0xE1A1#16 = 0xA1#8 ∧
      { State.reset with keyTape := [true] }.keyTape = true :: [] ∧ State.reset.keyTape = [] := by decide
theorem witness_LoadDelayTimerIntoRegister : fieldF 0xFC07#16 = 0xF#4 ∧ fieldKK 0xFC07#16 = 0x07#8 := by decide
theorem witness_TimerWritesRestartTheirAccumulator :
    fieldF 0xFA15#16 = 0xF#4 ∧ fieldKK 0xFA15#16 = 0x15#8 ∧ fieldKK 0xF018#16 = 0x18#8 := by decide
theorem witness_LoadKeySuspends : fieldF 0xFB0A#16 = 0xF#4 ∧ fieldKK 0xFB0A#16 = 0x0A#8 := by decide
theorem witness_DelayTimerDoesNotDrift :
    ([Config.timerPeriod, 1, 2 * Config.timerPeriod].foldl (fun u d => timerUpdate d u)
      { State.reset with dt := 5#8 }).dt ≠ 0#8 := by decide
theorem witness_WaitGoesOnWithoutKey :
    let s := waiting [.none]
    hostAction s = .tick 0 [.none] ∧ s.run = .active ∧ s.suspended = true ∧
      ∀ e ∈ s.pending ++ [.none], e = .none := by decide
theorem witness_FirstKeyDownEndsTheWait :
    let s := { waiting [] with pending := [.none] }
    s.suspended = true ∧ (∀ e ∈ [InputEvent.none], e = .none) ∧ (∀ e ∈ [InputEvent.keyDown 5], e ≠ .quit) ∧
      s.pending ++ [.keyDown 3, .keyDown 5] = [.none] ++ .keyDown 3 :: [.keyDown 5] ∧
      (waiting []).pending ++ [.none, .keyDown 3, .keyDown 5] = [.none] ++ .keyDown 3 :: [.keyDown 5] := by decide
theorem witness_QuitStopsTheTickBeforeExecution :
    let s := waiting [.keyDown 3, .quit, .none]
    hostAction s = .tick 0 [.keyDown 3, .quit, .none] ∧ s.run = .active ∧
      s.pending ++ [.keyDown 3, .quit, .none] = [.keyDown 3] ++ .quit :: [.none] ∧
      (∀ e ∈ [InputEvent.keyDown 3], e ≠ .quit) ∧ s.suspended = true ∧
      [InputEvent.keyDown 3] = [] ++ .keyDown 3 :: [] ∧ (∀ e ∈ ([] : List InputEvent), e = .none) := by decide
theorem witness_QuitStopsTheTickBeforeExecution_running :
    let s := { State.reset with script := [.tick 0 [.quit]] }
    hostAction s = .tick 0 [.quit] ∧ s.run = .active ∧ s.pending ++ [.quit] = [] ++ .quit :: [] ∧
      s.suspended = false := by decide
theorem witness_IndexWritesLeaveFlagsAlone :
    fieldF 0xA300#16 = 0xA#4 ∧ fieldF 0xF21E#16 = 0xF#4 ∧ fieldKK 0xF21E#16 = 0x1E#8 ∧
      fieldKK 0xFA29#16 = 0x29#8 := by decide
theorem witness_LoadBcdStoresThreeDigits :
    fieldF 0xF033#16 = 0xF#4 ∧ fieldKK 0xF033#16 = 0x33#8 ∧ State.reset.mem.wf := by decide
theorem witness_StoreRegistersWritesABlock :
    fieldF 0xFF55#16 = 0xF#4 ∧ fieldKK 0xFF55#16 = 0x55#8 ∧ State.reset.mem.wf ∧ (15 : Reg).val ≤ (15 : Reg).val := by
  decide
theorem witness_LoadRegistersReadsABlock : fieldF 0xFF65#16 = 0xF#4 ∧ fieldKK 0xFF65#16 = 0x65#8 := by decide
theorem witness_StoreThenLoadRestoresRegisters : State.reset.mem.wf := by decide
theorem witness_FailingInstructionChangesNoState :
    State.reset.run = .active ∧ exec (.sys 0#12) State.reset = .next (stop (.notImplemented 0#16) State.reset) ∧
      ∃ t, exec (.drw 0 0 0#4) { State.reset with drawTape := [⟨false, 3⟩] } = .next t ∧ t.run = .stopped (.error 3) :=
  ⟨rfl, rfl, _, rfl, rfl⟩
theorem witness_EachElementHasItsWriters :
    ∃ t, exec (.ldI 0x300#12) State.reset = .next t ∧ t.i ≠ State.reset.i := ⟨_, rfl, by decide⟩
theorem witness_EachElementHasItsWriters_stack :
    ∃ t, exec (.call 0x300#12) State.reset = .next t ∧ t.stack ≠ State.reset.stack ∧ t.sp ≠ State.reset.sp :=
  ⟨_, rfl, by decide, by decide⟩
theorem witness_EachElementHasItsWriters_timers :
    let s := { State.reset with accDT := 1, accST := 1 }
    ∃ t u, exec (.ldDTVx 0) s = .next t ∧ t.accDT ≠ s.accDT ∧ exec (.ldSTVx 0) s = .next u ∧ u.accST ≠ s.accST :=
  ⟨_, _, rfl, by decide, rfl, by decide⟩
theorem witness_EachElementHasItsWriters_ports :
    let s := { State.reset with randomTape := [0#8], keyTape := [true], drawTape := [⟨false, 0⟩], i := 0x000#16 }
    ∃ t u w, exec (.rnd 0 0#8) s = .next t ∧ t.randomTape ≠ s.randomTape ∧ t.calls ≠ s.calls ∧
      exec (.skp 0) s = .next u ∧ u.keyTape ≠ s.keyTape ∧
      exec (.drw 0 0 1#4) s = .next w ∧ w.drawTape ≠ s.drawTape ∧ w.fb ≠ s.fb :=
  ⟨_, _, _, rfl, by decide, by decide, rfl, by decide, rfl, by decide, by decide⟩
theorem witness_EachElementHasItsWriters_suspend :
    ∃ t, exec (.ldVxK 0) State.reset = .next t ∧ t.suspended ≠ State.reset.suspended := ⟨_, rfl, by decide⟩
theorem witness_SoundTimerInfluencesNothingElse :
    stepAnswers (start 0xF018 id) = true ∧ step (stop .quit State.reset) = .refused .hostActionAfterStop :=
  ⟨by decide, rfl⟩
theorem witness_DoWrapInfluencesOnlyDrw :
    (∀ x y n, Instr.cls ≠ .drw x y n) ∧ answers .cls State.reset = true := ⟨fun _ _ _ => nofun, by decide⟩
theorem witness_HardResetGivesColdStartValues :
    { State.reset with script := [.hardReset] }.script = .hardReset :: [] := by decide
theorem witness_TickWithoutProgramStops :
    ∀ e ∈ State.reset.pending ++ [InputEvent.keyDown 1], e ≠ .quit := by decide
theorem witness_LoadProgramCopiesOrRecordsAnError :
    { State.reset with script := [.loadProgram [0x12#8]] }.script = .loadProgram [0x12#8] :: [] ∧
      State.reset.run = .active ∧ State.reset.mem.wf ∧ 0 < [0x12#8].length ∧ [0x12#8].length ≤ 3584 ∧
      ¬(List.replicate 3585 0x00#8).length ≤ 3584 := by
  refine ⟨by decide, by decide, by decide, by decide, by decide, ?_⟩
  rw [List.length_replicate]
  decide
theorem witness_HostSetsDoWrapOnly :
    { State.reset with script := [.setDoWrap true] }.script = .setDoWrap true :: [] ∧
      State.reset.run = .active := by decide

end Sys2Proof.Tests
end

/-!
PROOFS. The fields of an instruction word as numbers (30_encoding.md R51).
-/
namespace Sys2Proof

/-- Bits `start + len - 1` to `start` of a word as a number: a shift by a division, a width by a remainder. -/
theorem toNat_bits_eq_div_mod (w : Word) (start len : Nat) :
    (w.extractLsb' start len).toNat = w.toNat / 2 ^ start % 2 ^ len := by
  rw [BitVec.extractLsb'_toNat, Nat.shiftRight_eq_div_pow]

/-- The family is the top nibble, so no remainder is left to take (`opcode >> 12` in R51). -/
theorem toNat_fieldF (w : Word) : (fieldF w).toNat = w.toNat / 0x1000 := by
  have top : w.toNat / 0x1000 < 16 := Nat.div_lt_of_lt_mul w.isLt
  exact (toNat_bits_eq_div_mod w 12 4).trans (Nat.mod_eq_of_lt top)

theorem val_fieldX (w : Word) : (fieldX w).val = w.toNat / 0x100 % 16 :=
  toNat_bits_eq_div_mod w 8 4

theorem val_fieldY (w : Word) : (fieldY w).val = w.toNat / 0x10 % 16 :=
  toNat_bits_eq_div_mod w 4 4

/-- The low bits of a word as a number: with nothing below them only the remainder is left. -/
theorem toNat_lowBits_eq_mod (w : Word) (len : Nat) : (w.extractLsb' 0 len).toNat = w.toNat % 2 ^ len := by
  rw [toNat_bits_eq_div_mod, Nat.pow_zero, Nat.div_one]

theorem toNat_fieldN (w : Word) : (fieldN w).toNat = w.toNat % 16 :=
  toNat_lowBits_eq_mod w 4

theorem toNat_fieldKK (w : Word) : (fieldKK w).toNat = w.toNat % 0x100 :=
  toNat_lowBits_eq_mod w 8

theorem toNat_fieldNNN (w : Word) : (fieldNNN w).toNat = w.toNat % 0x1000 :=
  toNat_lowBits_eq_mod w 12

/-- Settles O4: each row of the table of R51 is the lemma about its field. -/
theorem fieldsAreTheirBits : Obligations.FieldsAreTheirBits := fun w =>
  ⟨toNat_fieldF w, val_fieldX w, val_fieldY w, toNat_fieldN w, toNat_fieldKK w, toNat_fieldNNN w⟩

end Sys2Proof

/-!
PROOFS. System and control flow (40_system_flow.md): the words of the families 0 to 5 and 9, the equation of each
instruction's meaning, and what it leaves unchanged.
-/
namespace Sys2Proof

/-! ## The decoder, family by family (30_encoding.md R54) -/

theorem decode_family0 {w : Word} (h : fieldF w = 0x0#4) : decode w = decodeFamily0 w := by simp [decode, h]

theorem decode_family1 {w : Word} (h : fieldF w = 0x1#4) : decode w = .instr (.jp (fieldNNN w)) := by simp [decode, h]

theorem decode_family2 {w : Word} (h : fieldF w = 0x2#4) : decode w = .instr (.call (fieldNNN w)) := by
  simp [decode, h]

theorem decode_family3 {w : Word} (h : fieldF w = 0x3#4) : decode w = .instr (.seByte (fieldX w) (fieldKK w)) := by
  simp [decode, h]

theorem decode_family4 {w : Word} (h : fieldF w = 0x4#4) : decode w = .instr (.sneByte (fieldX w) (fieldKK w)) := by
  simp [decode, h]

theorem decode_family5 {w : Word} (h : fieldF w = 0x5#4) : decode w = decodeFamily5 w := by simp [decode, h]

theorem decode_family9 {w : Word} (h : fieldF w = 0x9#4) : decode w = decodeFamily9 w := by simp [decode, h]

theorem decodeFamily0_sys {w : Word} (hcls : fieldNNN w ≠ 0x0E0#12) (hret : fieldNNN w ≠ 0x0EE#12) :
    decodeFamily0 w = .instr (.sys (fieldNNN w)) := by
  rw [decodeFamily0, if_neg hcls, if_neg hret]

end Sys2Proof

namespace Sys2Proof.Machine

/-! ## Operands and frames -/

/-- Zero extension keeps the number (30_encoding.md R55). -/
@[simp] theorem toNat_addrWord (nnn : Addr12) : (addrWord nnn).toNat = nnn.toNat :=
  BitVec.toNat_setWidth_of_le (by decide)

theorem addrWord_eq_ofNat (nnn : Addr12) : addrWord nnn = BitVec.ofNat 16 nnn.toNat := by
  rw [← toNat_addrWord, BitVec.ofNat_toNat, BitVec.setWidth_eq]

theorem sameMemory_of_mem_eq {s t : State} (h : t.mem = s.mem) : sameMemory s t := fun b => readByte_congr b h

theorem onlyPC_jumpTo (a : Word) (s : State) : onlyPC s (jumpTo a s) := ⟨rfl, sameMemory_of_mem_eq rfl⟩

/-- The driver reports every stop to the Tick's caller (60_exceptions.md R109). -/
@[simp] theorem stopSignal_stop (r : StopReason) (s : State) : stopSignal (stop r s) = true := rfl

/-! ## SYS and JP -/

theorem exec_sys (nnn : Addr12) (s : State) :
    exec (.sys nnn) s = .next (stop (.notImplemented (addrWord nnn)) s) := rfl

theorem exec_jp (nnn : Addr12) (s : State) : exec (.jp nnn) s = .next (jumpTo (addrWord nnn) s) := rfl

/-! ## CALL -/

theorem exec_call_of_full (nnn : Addr12) {s : State} (h : s.sp = 15#8) :
    exec (.call nnn) s = .next (stop (.stackOverflow 15#8) s) := by
  rw [exec, execCall, if_pos h, h]
  rfl

/-- The SP that CALL leaves when it does not fail (40_system_flow.md R72). -/
def spAfterCall (p : Byte) : Byte := if p ≤ 14#8 then p + 1#8 else 0#8

theorem exec_call_of_room (nnn : Addr12) {s : State} (h : s.sp ≠ 15#8) :
    exec (.call nnn) s = .next (jumpTo (addrWord nnn) (pushStack (spAfterCall s.sp) s.pc s)) := by
  rw [exec, execCall, if_neg h]
  rfl

theorem toNat_spAfterCall (p : Byte) : (spAfterCall p).toNat = if p.toNat ≤ 14 then p.toNat + 1 else 0 := by
  unfold spAfterCall
  by_cases h : p.toNat ≤ 14
  · rw [if_pos (BitVec.le_def.2 h), if_pos h]
    bv_omega
  · rw [if_neg (mt BitVec.le_def.1 h), if_neg h]
    rfl

theorem toNat_spAfterCall_lt (p : Byte) : (spAfterCall p).toNat < 16 := by
  rw [toNat_spAfterCall]
  split <;> omega

/-- SP itself is the index while it is one (40_system_flow.md R69, R72). -/
theorem val_stackIndex_of_lt {p : Byte} (h : p.toNat < 16) : (stackIndex p).val = p.toNat := by
  have low : (stackIndex p).val = p.toNat % 16 := by simp [stackIndex]
  rw [low, Nat.mod_eq_of_lt h]

theorem getElem?_pushStack_top {p : Byte} (h : p.toNat < 16) (a : Word) (s : State) :
    (pushStack p a s).stack[p.toNat]? = some a := by
  simp [val_stackIndex_of_lt h, h]

theorem getElem?_pushStack_ne {p : Byte} (h : p.toNat < 16) (a : Word) (s : State) {j : Nat} (hj : j ≠ p.toNat) :
    (pushStack p a s).stack[j]? = s.stack[j]? := by
  simp [val_stackIndex_of_lt h, hj.symm]

/-! ## Skips -/

/-- The inner step of a skip and then the driver's: a net +4 or +2 (30_encoding.md R64). -/
theorem finish_skipIf (c : Bool) (s : State) :
    finish .incrementPC (skipIf c s) = .next (jumpTo (s.pc + if c then 4#16 else 2#16) s) := by
  cases c
  · rfl
  · have twice : s.pc + 2#16 + 2#16 = s.pc + 4#16 := BitVec.add_assoc s.pc 2#16 2#16
    calc finish .incrementPC (skipIf true s)
      _ = .next (jumpTo (s.pc + 2#16 + 2#16) s) := rfl
      _ = .next (jumpTo (s.pc + 4#16) s) := by rw [twice]

theorem exec_seByte (x : Reg) (kk : Byte) (s : State) :
    exec (.seByte x kk) s = .next (jumpTo (s.pc + if readReg x s = kk then 4#16 else 2#16) s) := by
  simp [exec, execSeByte, finish_skipIf]

theorem exec_sneByte (x : Reg) (kk : Byte) (s : State) :
    exec (.sneByte x kk) s = .next (jumpTo (s.pc + if readReg x s = kk then 2#16 else 4#16) s) := by
  simp [exec, execSneByte, finish_skipIf]

theorem exec_seReg (x y : Reg) (s : State) :
    exec (.seReg x y) s = .next (jumpTo (s.pc + if readReg x s = readReg y s then 4#16 else 2#16) s) := by
  simp [exec, execSeReg, finish_skipIf]

theorem exec_sneReg (x y : Reg) (s : State) :
    exec (.sneReg x y) s = .next (jumpTo (s.pc + if readReg x s = readReg y s then 2#16 else 4#16) s) := by
  simp [exec, execSneReg, finish_skipIf]

/-! ## The statements -/

/-- Settles O19: SYS is a stop and nothing else, and its operand zero-extended is its word. -/
theorem sysStopsNotImplemented : Obligations.SysStopsNotImplemented := by
  refine ⟨fun w hF hcls hret => (decode_family0 hF).trans (decodeFamily0_sys hcls hret), fun nnn s => ?_⟩
  rw [← addrWord_eq_ofNat]
  exact ⟨_, exec_sys nnn s, rfl, rfl, stopSignal_stop _ s⟩

/-- Settles O24: the SP that CALL leaves is below 16, so it is the index of the entry pushed. -/
theorem callPushesItsOwnAddress : Obligations.CallPushesItsOwnAddress := by
  refine ⟨fun w => decode_family2, fun nnn s => exec_call_of_full nnn, fun nnn s hroom => ?_⟩
  have inStack : (spAfterCall s.sp).toNat < 16 := toNat_spAfterCall_lt s.sp
  exact ⟨_, exec_call_of_room nnn hroom, toNat_spAfterCall s.sp, getElem?_pushStack_top inStack s.pc s,
    fun j => getElem?_pushStack_ne inStack s.pc s, toNat_addrWord nnn, rfl, sameMemory_of_mem_eq rfl⟩

/-- Settles O26: both byte skips are a jump by the net advance. -/
theorem byteSkipsAddFourOrTwo : Obligations.ByteSkipsAddFourOrTwo :=
  ⟨fun _ => decode_family3, fun _ => decode_family4, fun x kk s =>
    ⟨⟨_, exec_seByte x kk s, rfl, onlyPC_jumpTo _ s⟩, ⟨_, exec_sneByte x kk s, rfl, onlyPC_jumpTo _ s⟩⟩⟩

/-- Settles O27: the trailing nibble decides what the families 5 and 9 hold, and both skips are a jump by the net
advance. -/
theorem registerSkipsAddFourOrTwo : Obligations.RegisterSkipsAddFourOrTwo :=
  ⟨fun _ hF hN => (decode_family5 hF).trans (if_pos hN), fun _ hF hN => (decode_family5 hF).trans (if_neg hN),
    fun _ hF hN => (decode_family9 hF).trans (if_pos hN), fun _ hF hN => (decode_family9 hF).trans (if_neg hN),
    fun x y s =>
      ⟨⟨_, exec_seReg x y s, rfl, onlyPC_jumpTo _ s⟩, ⟨_, exec_sneReg x y s, rfl, onlyPC_jumpTo _ s⟩⟩⟩

/-- Settles O22: JP is a jump to its operand, whose zero extension is the same number. -/
theorem jpSetsPC : Obligations.JpSetsPC :=
  ⟨fun _ => decode_family1, fun nnn s => ⟨_, exec_jp nnn s, toNat_addrWord nnn, onlyPC_jumpTo _ s⟩⟩

end Sys2Proof.Machine

/-!
PROOFS. Register arithmetic and logic (41_alu.md): the words of the families 6 to 8, the equation of each instruction's
meaning, the value and the flag it writes, and what it leaves unchanged.
-/
namespace Sys2Proof

/-! ## The decoder, family by family (30_encoding.md R54) -/

theorem decode_family6 {w : Word} (h : fieldF w = 0x6#4) : decode w = .instr (.ldByte (fieldX w) (fieldKK w)) := by
  simp [decode, h]

theorem decode_family7 {w : Word} (h : fieldF w = 0x7#4) : decode w = .instr (.addByte (fieldX w) (fieldKK w)) := by
  simp [decode, h]

theorem decode_family8 {w : Word} (h : fieldF w = 0x8#4) : decode w = decodeFamily8 w := by simp [decode, h]

/-! Family 8 by the trailing nibble. -/

theorem decodeFamily8_ldReg {w : Word} (h : fieldN w = 0x0#4) :
    decodeFamily8 w = .instr (.ldReg (fieldX w) (fieldY w)) := by simp [decodeFamily8, h]

theorem decodeFamily8_orReg {w : Word} (h : fieldN w = 0x1#4) :
    decodeFamily8 w = .instr (.orReg (fieldX w) (fieldY w)) := by simp [decodeFamily8, h]

theorem decodeFamily8_andReg {w : Word} (h : fieldN w = 0x2#4) :
    decodeFamily8 w = .instr (.andReg (fieldX w) (fieldY w)) := by simp [decodeFamily8, h]

theorem decodeFamily8_xorReg {w : Word} (h : fieldN w = 0x3#4) :
    decodeFamily8 w = .instr (.xorReg (fieldX w) (fieldY w)) := by simp [decodeFamily8, h]

theorem decodeFamily8_addReg {w : Word} (h : fieldN w = 0x4#4) :
    decodeFamily8 w = .instr (.addReg (fieldX w) (fieldY w)) := by simp [decodeFamily8, h]

theorem decodeFamily8_subReg {w : Word} (h : fieldN w = 0x5#4) :
    decodeFamily8 w = .instr (.subReg (fieldX w) (fieldY w)) := by simp [decodeFamily8, h]

theorem decodeFamily8_shr {w : Word} (h : fieldN w = 0x6#4) :
    decodeFamily8 w = .instr (.shr (fieldX w) (fieldY w)) := by simp [decodeFamily8, h]

theorem decodeFamily8_subnReg {w : Word} (h : fieldN w = 0x7#4) :
    decodeFamily8 w = .instr (.subnReg (fieldX w) (fieldY w)) := by simp [decodeFamily8, h]

theorem decodeFamily8_shl {w : Word} (h : fieldN w = 0xE#4) :
    decodeFamily8 w = .instr (.shl (fieldX w) (fieldY w)) := by simp [decodeFamily8, h]

end Sys2Proof

namespace Sys2Proof.Machine

/-! ## Frames -/

/-- What an instruction that advances PC and writes no register outside `rs` leaves unchanged, as the statements about
41_alu.md say it. -/
def advancesButFor (rs : List Reg) (s t : State) : Prop := sameRegsBut rs s t ∧ t.pc = s.pc + 2#16 ∧ onlyRegsPC s t

theorem advancesButFor_writeReg (x : Reg) (u : Byte) (s : State) :
    advancesButFor [x] s (advancePC (writeReg x u s)) :=
  ⟨fun _ hr => readReg_writeReg_ne u s (List.ne_of_not_mem_cons hr), rfl, rfl, sameMemory_of_mem_eq rfl⟩

theorem advancesButFor_writeFlagThenResult (x : Reg) (flag result : Byte) (s : State) :
    advancesButFor [x, 15] s (advancePC (writeFlagThenResult x flag result s)) := by
  refine ⟨fun r hr => ?_, rfl, rfl, sameMemory_of_mem_eq rfl⟩
  obtain ⟨hx, hvf⟩ : r ≠ x ∧ r ≠ 15 := by simpa using hr
  exact readReg_writeFlagThenResult_ne flag result s hx hvf

/-! ## What the instructions write (41_alu.md R77) -/

theorem exec_ldByte (x : Reg) (kk : Byte) (s : State) :
    exec (.ldByte x kk) s = .next (advancePC (writeReg x kk s)) := rfl

theorem exec_addByte (x : Reg) (kk : Byte) (s : State) :
    exec (.addByte x kk) s = .next (advancePC (writeReg x (readReg x s + kk) s)) := rfl

theorem exec_ldReg (x y : Reg) (s : State) :
    exec (.ldReg x y) s = .next (advancePC (writeReg x (readReg y s) s)) := rfl

theorem exec_orReg (x y : Reg) (s : State) :
    exec (.orReg x y) s = .next (advancePC (writeReg x (readReg x s ||| readReg y s) s)) := rfl

theorem exec_andReg (x y : Reg) (s : State) :
    exec (.andReg x y) s = .next (advancePC (writeReg x (readReg x s &&& readReg y s) s)) := rfl

theorem exec_xorReg (x y : Reg) (s : State) :
    exec (.xorReg x y) s = .next (advancePC (writeReg x (readReg x s ^^^ readReg y s) s)) := rfl

theorem exec_addReg (x y : Reg) (s : State) :
    exec (.addReg x y) s = .next (advancePC (writeFlagThenResult x (carryFlag (readReg x s) (readReg y s))
      (readReg x s + readReg y s) s)) := rfl

theorem exec_subReg (x y : Reg) (s : State) :
    exec (.subReg x y) s = .next (advancePC (writeFlagThenResult x (greaterFlag (readReg x s) (readReg y s))
      (readReg x s - readReg y s) s)) := rfl

theorem exec_subnReg (x y : Reg) (s : State) :
    exec (.subnReg x y) s = .next (advancePC (writeFlagThenResult x (greaterFlag (readReg y s) (readReg x s))
      (readReg y s - readReg x s) s)) := rfl

theorem exec_shr (x y : Reg) (s : State) :
    exec (.shr x y) s =
      .next (advancePC (writeFlagThenResult x (lowBitFlag (readReg x s)) (readReg x s >>> 1) s)) := rfl

theorem exec_shl (x y : Reg) (s : State) :
    exec (.shl x y) s =
      .next (advancePC (writeFlagThenResult x (highBitFlag (readReg x s)) (readReg x s <<< 1) s)) := rfl

/-! ## Results and flags as numbers -/

/-- A borrow wraps around 256 (41_alu.md R85, R86). -/
theorem toNat_sub_byte (a b : Byte) : (a - b).toNat = (a.toNat + 256 - b.toNat) % 256 := by bv_omega

theorem toNat_shiftRight_one (a : Byte) : (a >>> 1).toNat = a.toNat / 2 := by
  rw [BitVec.toNat_ushiftRight, Nat.shiftRight_eq_div_pow, Nat.pow_one]

theorem toNat_shiftLeft_one (a : Byte) : (a <<< 1).toNat = a.toNat * 2 % 256 := by
  rw [BitVec.toNat_shiftLeft, Nat.shiftLeft_eq, Nat.pow_one]

theorem flagByte_decide (p : Prop) [Decidable p] : flagByte (decide p) = if p then 1#8 else 0#8 := by
  simp only [flagByte, decide_eq_true_eq]

theorem carryFlag_eq (a b : Byte) : carryFlag a b = if a.toNat + b.toNat > 255 then 1#8 else 0#8 :=
  flagByte_decide _

theorem greaterFlag_eq (a b : Byte) : greaterFlag a b = if a.toNat > b.toNat then 1#8 else 0#8 :=
  flagByte_decide _

/-- The bit that SHR shifts out (41_alu.md R87). -/
theorem toNat_lowBitFlag (a : Byte) : (lowBitFlag a).toNat = a.toNat % 2 := by
  rw [lowBitFlag, BitVec.toNat_and]
  exact Nat.and_one_is_mod a.toNat

/-- The bit that SHL shifts out (41_alu.md R88). -/
theorem toNat_highBitFlag (a : Byte) : (highBitFlag a).toNat = a.toNat / 128 := by
  rw [highBitFlag, BitVec.toNat_ushiftRight, Nat.shiftRight_eq_div_pow]

/-! ## One register, no flag -/

/-- Settles O28: both loads write one register, with the byte or with the old value of the other. -/
theorem loadsCopyIntoOneRegister : Obligations.LoadsCopyIntoOneRegister :=
  ⟨fun _ => decode_family6, fun _ hF hN => (decode_family8 hF).trans (decodeFamily8_ldReg hN),
    fun x kk s => ⟨_, exec_ldByte x kk s, readReg_writeReg_same x kk s, advancesButFor_writeReg x kk s⟩,
    fun x y s => ⟨_, exec_ldReg x y s, readReg_writeReg_same x _ s, advancesButFor_writeReg x _ s⟩⟩

/-- Settles O29: the sum is that of bytes, and VF is one of the registers that are kept. -/
theorem addByteWrapsWithoutCarry : Obligations.AddByteWrapsWithoutCarry := by
  refine ⟨fun _ => decode_family7, fun x kk s => ⟨_, exec_addByte x kk s, ?_, advancesButFor_writeReg x _ s⟩⟩
  rw [readReg_advancePC, readReg_writeReg_same]
  exact BitVec.toNat_add (readReg x s) kk

/-- Settles O30: each operation writes one register, and its bits are the operation on the bits of the operands. -/
theorem logicWorksBitByBitWithoutFlag : Obligations.LogicWorksBitByBitWithoutFlag := by
  refine ⟨fun _ hF hN => (decode_family8 hF).trans (decodeFamily8_orReg hN),
    fun _ hF hN => (decode_family8 hF).trans (decodeFamily8_andReg hN),
    fun _ hF hN => (decode_family8 hF).trans (decodeFamily8_xorReg hN), fun x y s =>
    ⟨⟨_, exec_orReg x y s, fun k => ?_, advancesButFor_writeReg x _ s⟩,
      ⟨_, exec_andReg x y s, fun k => ?_, advancesButFor_writeReg x _ s⟩,
      ⟨_, exec_xorReg x y s, fun k => ?_, advancesButFor_writeReg x _ s⟩⟩⟩
  · rw [readReg_advancePC, readReg_writeReg_same, BitVec.getLsbD_or]
  · rw [readReg_advancePC, readReg_writeReg_same, BitVec.getLsbD_and]
  · rw [readReg_advancePC, readReg_writeReg_same, BitVec.getLsbD_xor]

/-! ## A flag, then a result

The result is written after the flag, so it stays when X = 15 (92_eei_decisions.md D3). -/

/-- The number the destination ends with, where a flag was written before it. -/
theorem toNat_dest_of_flagThenResult (x : Reg) (flag result : Byte) (s : State) :
    (readReg x (advancePC (writeFlagThenResult x flag result s))).toNat = result.toNat :=
  congrArg BitVec.toNat (readReg_writeFlagThenResult_dest x flag result s)

/-- The flag that VF ends with, where the result is written to another register. -/
theorem vf_of_flagThenResult {x : Reg} (flag result : Byte) (s : State) (hx : x ≠ 15) :
    readReg 15 (advancePC (writeFlagThenResult x flag result s)) = flag :=
  readReg_writeFlagThenResult_vf flag result s hx

/-- Settles O31: the flag is the carry of the old operands, and the result is their sum as bytes. -/
theorem addSetsCarryThenResult : Obligations.AddSetsCarryThenResult :=
  ⟨fun _ hF hN => (decode_family8 hF).trans (decodeFamily8_addReg hN), fun x y s =>
    ⟨_, exec_addReg x y s, (toNat_dest_of_flagThenResult x _ _ s).trans (BitVec.toNat_add _ _),
      fun hx => (vf_of_flagThenResult _ _ s hx).trans (carryFlag_eq _ _),
      advancesButFor_writeFlagThenResult x _ _ s⟩⟩

/-- Settles O32: the flag compares the old operands, and the result is their difference as bytes. -/
theorem subSetsStrictGreaterThenResult : Obligations.SubSetsStrictGreaterThenResult :=
  ⟨fun _ hF hN => (decode_family8 hF).trans (decodeFamily8_subReg hN), fun x y s =>
    ⟨_, exec_subReg x y s, (toNat_dest_of_flagThenResult x _ _ s).trans (toNat_sub_byte _ _),
      fun hx => (vf_of_flagThenResult _ _ s hx).trans (greaterFlag_eq _ _),
      advancesButFor_writeFlagThenResult x _ _ s⟩⟩

/-- Settles O33: as for SUB, with the operands exchanged. -/
theorem subnSetsStrictGreaterThenResult : Obligations.SubnSetsStrictGreaterThenResult :=
  ⟨fun _ hF hN => (decode_family8 hF).trans (decodeFamily8_subnReg hN), fun x y s =>
    ⟨_, exec_subnReg x y s, (toNat_dest_of_flagThenResult x _ _ s).trans (toNat_sub_byte _ _),
      fun hx => (vf_of_flagThenResult _ _ s hx).trans (greaterFlag_eq _ _),
      advancesButFor_writeFlagThenResult x _ _ s⟩⟩

/-- Settles O34: a shift by one halves or doubles, and the flag is the bit at the end that falls off. -/
theorem shiftsMoveTheLostBitToVF : Obligations.ShiftsMoveTheLostBitToVF :=
  ⟨fun _ hF hN => (decode_family8 hF).trans (decodeFamily8_shr hN),
    fun _ hF hN => (decode_family8 hF).trans (decodeFamily8_shl hN), fun x y s =>
    ⟨⟨_, exec_shr x y s, (toNat_dest_of_flagThenResult x _ _ s).trans (toNat_shiftRight_one _),
        fun hx => (congrArg BitVec.toNat (vf_of_flagThenResult _ _ s hx)).trans (toNat_lowBitFlag _),
        advancesButFor_writeFlagThenResult x _ _ s⟩,
      ⟨_, exec_shl x y s, (toNat_dest_of_flagThenResult x _ _ s).trans (toNat_shiftLeft_one _),
        fun hx => (congrArg BitVec.toNat (vf_of_flagThenResult _ _ s hx)).trans (toNat_highBitFlag _),
        advancesButFor_writeFlagThenResult x _ _ s⟩⟩⟩

end Sys2Proof.Machine

/-!
PROOFS. Index register and memory (44_index_memory.md): the words of family F that move a block of bytes at I, the
equation of each one's meaning, the bytes it moves, and what it leaves unchanged.
-/
namespace Sys2Proof

/-! ## Family F of the decoder by its trailing byte (30_encoding.md R54) -/

theorem decode_familyF {w : Word} (h : fieldF w = 0xF#4) : decode w = decodeFamilyF w := by simp [decode, h]

theorem decodeFamilyF_ldB {w : Word} (h : fieldKK w = 0x33#8) : decodeFamilyF w = .instr (.ldB (fieldX w)) := by
  simp [decodeFamilyF, h]

theorem decodeFamilyF_storeRegs {w : Word} (h : fieldKK w = 0x55#8) :
    decodeFamilyF w = .instr (.storeRegs (fieldX w)) := by simp [decodeFamilyF, h]

theorem decodeFamilyF_loadRegs {w : Word} (h : fieldKK w = 0x65#8) :
    decodeFamilyF w = .instr (.loadRegs (fieldX w)) := by simp [decodeFamilyF, h]

end Sys2Proof

namespace Sys2Proof.Machine

/-! ## What the instructions move -/

theorem exec_ldB (x : Reg) (s : State) :
    exec (.ldB x) s = .next (advancePC (writeBytes s.i.toNat (bcdDigits (readReg x s)) s)) := rfl

theorem exec_storeRegs (x : Reg) (s : State) :
    exec (.storeRegs x) s = .next (advancePC (writeBytes s.i.toNat (regBlock x s) s)) := rfl

theorem exec_loadRegs (x : Reg) (s : State) :
    exec (.loadRegs x) s = .next (advancePC { s with v := loadBlock x s }) := rfl

/-! The digits of a byte as numbers (44_index_memory.md R100). -/

theorem toNat_hundreds (u : Byte) : (u / 100#8).toNat = u.toNat / 100 := BitVec.toNat_udiv

theorem toNat_tens (u : Byte) : (u / 10#8 % 10#8).toNat = u.toNat / 10 % 10 := by
  rw [BitVec.toNat_umod, BitVec.toNat_udiv]
  rfl

theorem toNat_ones (u : Byte) : (u % 10#8).toNat = u.toNat % 10 := BitVec.toNat_umod

/-- A block of registers is far shorter than memory, so writing it does not lap memory (20_memory.md R36). -/
theorem length_regBlock_le (x : Reg) (s : State) : (regBlock x s).length ≤ Config.memSize := by
  have small : x.val + 1 ≤ 16 := x.isLt
  rw [length_regBlock]
  exact small.trans (by decide)

theorem readReg_loadBlock (x r : Reg) (s : State) :
    readReg r { s with v := loadBlock x s } =
      if r.val ≤ x.val then readByte (s.i.toNat + r.val) s else readReg r s :=
  getElem_loadBlock x r s

/-- Every address the core forms is reduced, so reducing it before changes nothing (20_memory.md R36). -/
theorem readByte_mod_memSize (a : Nat) (s : State) : readByte (a % Config.memSize) s = readByte a s := by
  simp only [readByte, reduceAddr, Nat.mod_mod]

/-! ## Frames -/

/-- What an instruction that advances PC and writes `n` bytes from `a` on leaves unchanged. -/
def advancesButForBlock (a n : Nat) (s t : State) : Prop :=
  sameMemoryOutside a n s t ∧ t.pc = s.pc + 2#16 ∧ onlyMemoryPC s t

theorem advancesButForBlock_writeBytes {n : Nat} {us : List Byte} (h : us.length = n) (a : Nat) (s : State) :
    advancesButForBlock a n s (advancePC (writeBytes a us s)) := by
  subst h
  refine ⟨fun b => readByte_writeBytes_outside us a s, by rw [advancePC_pc, writeBytes_pc], ?_⟩
  rw [onlyMemoryPC, writeBytes_eq]
  rfl

theorem onlyRegsPC_advancePC (v : Vector Byte 16) (s : State) : onlyRegsPC s (advancePC { s with v := v }) :=
  ⟨rfl, sameMemory_of_mem_eq rfl⟩

/-! ## The statements -/

/-- Settles O49: the three bytes written are the digits, and three bytes do not lap memory. -/
theorem loadBcdStoresThreeDigits : Obligations.LoadBcdStoresThreeDigits := by
  refine ⟨fun _ hF hKK => (decode_familyF hF).trans (decodeFamilyF_ldB hKK), fun x s =>
    ⟨_, exec_ldB x s, fun hwf => ?_, advancesButForBlock_writeBytes (length_bcdDigits _) _ s⟩⟩
  have short : (bcdDigits (readReg x s)).length ≤ Config.memSize := by
    rw [length_bcdDigits]
    decide
  have digit {k : Nat} (hk : k < 3) := congrArg BitVec.toNat (readByte_writeBytes_at _ s.i.toNat hwf short hk)
  exact ⟨(digit (k := 0) (by decide)).trans (toNat_hundreds _), (digit (k := 1) (by decide)).trans (toNat_tens _),
    (digit (k := 2) (by decide)).trans (toNat_ones _)⟩

/-- Settles O50: entry `r` of the block written is `V[r]`, and the block does not lap memory. -/
theorem storeRegistersWritesABlock : Obligations.StoreRegistersWritesABlock := by
  refine ⟨fun _ hF hKK => (decode_familyF hF).trans (decodeFamilyF_storeRegs hKK), fun x s =>
    ⟨_, exec_storeRegs x s, fun hwf r hr => ?_, advancesButForBlock_writeBytes (length_regBlock x s) _ s⟩⟩
  have inBlock : r.val < (regBlock x s).length := by
    rw [length_regBlock]
    exact Nat.lt_succ_of_le hr
  exact (readByte_writeBytes_at (regBlock x s) s.i.toNat hwf (length_regBlock_le x s) inBlock).trans
    (getElem_regBlock x s inBlock)

/-- Settles O51: the register file is replaced by the block loaded, whose addresses are reduced by the read itself. -/
theorem loadRegistersReadsABlock : Obligations.LoadRegistersReadsABlock := by
  refine ⟨fun _ hF hKK => (decode_familyF hF).trans (decodeFamilyF_loadRegs hKK), fun x s =>
    ⟨_, exec_loadRegs x s, fun r => ?_, rfl, onlyRegsPC_advancePC _ s⟩⟩
  rw [readReg_advancePC, readReg_loadBlock]
  exact if_congr Iff.rfl (readByte_mod_memSize _ s).symm rfl

end Sys2Proof.Machine

/-!
PROOFS. The status of a handler and the stop signal (60_exceptions.md R109): a failure is a stop with its reason, and
every other status keeps `Run`.
-/
namespace Sys2Proof.Machine

/-- A running core reports no stop to the Tick's caller. -/
theorem stopSignal_of_active {s : State} (h : s.run = .active) : stopSignal s = false := by
  rw [stopSignal, h]
  rfl

/-- A status that the driver answers with a stop ends the run with that reason and reports it. -/
theorem finish_stops {status : Status} {r : StopReason} {s : State} (h : afterHandler status s = stop r s) :
    ∃ t, finish status s = .next t ∧ t.run = .stopped r ∧ stopSignal t = true :=
  ⟨stop r s, finish_eq_next.2 h, stop_run r s, stopSignal_stop r s⟩

/-- The driver after a status that is no failure (30_encoding.md R63): `PC` is all that it can change. -/
theorem afterHandler_of_continues {status : Status}
    (h : status = .incrementPC ∨ status = .notIncrementPC ∨ status = .waitForKeyboard) (s : State) :
    afterHandler status s = { s with pc := if status = .incrementPC then s.pc + 2#16 else s.pc } := by
  obtain rfl | rfl | rfl := h
  · rfl
  · rfl
  · rfl

/-- Settles O9: each failure is answered with the stop of its own reason, and every other status leaves `Run` active. -/
theorem failureStatusesStopTheRun : Obligations.FailureStatusesStopTheRun :=
  fun _ _ _ _ active => ⟨finish_stops rfl, finish_stops rfl, finish_stops rfl, fun _ continues =>
    ⟨_, finish_eq_next.2 (afterHandler_of_continues continues _), stopSignal_of_active active, rfl⟩⟩

end Sys2Proof.Machine

/-!
PROOFS. The decoder and the encoder are inverse to each other, and which words are reserved (30_encoding.md R53 to R59).
-/
namespace Sys2Proof

/-! ## The decoder, family by family (30_encoding.md R54) -/

theorem decode_familyA {w : Word} (h : fieldF w = 0xA#4) : decode w = .instr (.ldI (fieldNNN w)) := by
  simp [decode, h]

theorem decode_familyB {w : Word} (h : fieldF w = 0xB#4) : decode w = .instr (.jpV0 (fieldNNN w)) := by
  simp [decode, h]

theorem decode_familyC {w : Word} (h : fieldF w = 0xC#4) : decode w = .instr (.rnd (fieldX w) (fieldKK w)) := by
  simp [decode, h]

theorem decode_familyD {w : Word} (h : fieldF w = 0xD#4) :
    decode w = .instr (.drw (fieldX w) (fieldY w) (fieldN w)) := by simp [decode, h]

theorem decode_familyE {w : Word} (h : fieldF w = 0xE#4) : decode w = decodeFamilyE w := by simp [decode, h]

/-- The sixteen values of a field of four bits, for a case split over the families or over the trailing nibble. -/
theorem nibble_cases : ∀ f : BitVec 4,
    f = 0x0#4 ∨ f = 0x1#4 ∨ f = 0x2#4 ∨ f = 0x3#4 ∨ f = 0x4#4 ∨ f = 0x5#4 ∨ f = 0x6#4 ∨ f = 0x7#4 ∨
    f = 0x8#4 ∨ f = 0x9#4 ∨ f = 0xA#4 ∨ f = 0xB#4 ∨ f = 0xC#4 ∨ f = 0xD#4 ∨ f = 0xE#4 ∨ f = 0xF#4 := by
  decide

/-! ## Decoding an instruction's word -/

/-- Each word has the family of its instruction, and the fields that family reads are the operands. -/
theorem decode_encode {i : Instr} (h : i.wellFormed = true) : decode (encode i) = .instr i := by
  cases i
  case sys nnn =>
    obtain ⟨hcls, hret⟩ : nnn ≠ 0x0E0#12 ∧ nnn ≠ 0x0EE#12 := by simpa [Instr.wellFormed] using h
    simp [encode, decode_family0, decodeFamily0, hcls, hret]
  case cls | ret => decide
  case jp | call | ldI | jpV0 =>
    simp [encode, decode_family1, decode_family2, decode_familyA, decode_familyB]
  case seByte | sneByte | ldByte | addByte | rnd =>
    simp [encode, decode_family3, decode_family4, decode_family6, decode_family7, decode_familyC]
  case seReg => simp [encode, decode_family5, decodeFamily5]
  case sneReg => simp [encode, decode_family9, decodeFamily9]
  case ldReg | orReg | andReg | xorReg | addReg | subReg | subnReg | shr | shl =>
    simp [encode, decode_family8, decodeFamily8]
  case drw => simp [encode, decode_familyD]
  case skp | sknp => simp [encode, decode_familyE, decodeFamilyE]
  case ldVxDT | ldVxK | ldDTVx | ldSTVx | addI | ldF | ldB | storeRegs | loadRegs =>
    simp [encode, decode_familyF, decodeFamilyF]

/-- Settles O2: `decode_encode`, a case per format of the opcode map. -/
theorem decodeOfEncodeIsIdentity : Obligations.DecodeOfEncodeIsIdentity := fun _ => decode_encode

/-! ## A word is made of its fields (30_encoding.md R51, R52) -/

/-- Two adjacent runs of bits of a word make up one. -/
theorem bits_append_bits (w : Word) (start low high : Nat) :
    w.extractLsb' (start + low) high ++ w.extractLsb' start low = w.extractLsb' start (high + low) :=
  BitVec.extractLsb'_append_extractLsb'_eq_extractLsb' rfl

theorem wordNNN_of_fields {w : Word} {f : BitVec 4} (hF : fieldF w = f) : wordNNN f (fieldNNN w) = w := by
  subst hF
  exact (bits_append_bits w 0 12 4).trans BitVec.extractLsb'_eq_self

theorem wordXKK_of_fields {w : Word} {f : BitVec 4} {kk : Byte} (hF : fieldF w = f) (hKK : fieldKK w = kk) :
    wordXKK f (fieldX w) kk = w := by
  subst hF hKK
  have high := congrArg (· ++ w.extractLsb' 0 8) (bits_append_bits w 8 4 4)
  exact high.trans ((bits_append_bits w 0 8 8).trans BitVec.extractLsb'_eq_self)

theorem wordXYN_of_fields {w : Word} {f n : BitVec 4} (hF : fieldF w = f) (hN : fieldN w = n) :
    wordXYN f (fieldX w) (fieldY w) n = w := by
  subst hF hN
  have high := congrArg (· ++ w.extractLsb' 4 4 ++ w.extractLsb' 0 4) (bits_append_bits w 8 4 4)
  have middle := congrArg (· ++ w.extractLsb' 0 4) (bits_append_bits w 4 4 8)
  exact high.trans (middle.trans ((bits_append_bits w 0 4 12).trans BitVec.extractLsb'_eq_self))

/-! ## Encoding what a word decodes to -/

/-- The instruction is well formed, and `w` is its word. -/
def isWordOf (w : Word) (i : Instr) : Prop := i.wellFormed = true ∧ encode i = w

theorem isWordOf_decodeFamily0 {w : Word} {i : Instr} (hF : fieldF w = 0x0#4) (h : decodeFamily0 w = .instr i) :
    isWordOf w i := by
  have word : wordNNN 0x0#4 (fieldNNN w) = w := wordNNN_of_fields hF
  unfold decodeFamily0 at h
  split at h
  next hcls =>
    cases h
    rw [hcls] at word
    exact ⟨rfl, word⟩
  next hcls =>
    split at h
    next hret =>
      cases h
      rw [hret] at word
      exact ⟨rfl, word⟩
    next hret =>
      cases h
      exact ⟨by simp [Instr.wellFormed, hcls, hret], word⟩

theorem isWordOf_decodeFamily5 {w : Word} {i : Instr} (hF : fieldF w = 0x5#4) (h : decodeFamily5 w = .instr i) :
    isWordOf w i := by
  unfold decodeFamily5 at h
  split at h <;> cases h
  next hN => exact ⟨rfl, wordXYN_of_fields hF hN⟩

theorem isWordOf_decodeFamily9 {w : Word} {i : Instr} (hF : fieldF w = 0x9#4) (h : decodeFamily9 w = .instr i) :
    isWordOf w i := by
  unfold decodeFamily9 at h
  split at h <;> cases h
  next hN => exact ⟨rfl, wordXYN_of_fields hF hN⟩

/-- Every arm of the match keeps both register fields and has its nibble from the match. -/
theorem isWordOf_decodeFamily8 {w : Word} {i : Instr} (hF : fieldF w = 0x8#4) (h : decodeFamily8 w = .instr i) :
    isWordOf w i := by
  unfold decodeFamily8 at h
  split at h <;> cases h
  all_goals
    rename_i hN
    exact ⟨rfl, wordXYN_of_fields hF (BitVec.eq_of_toNat_eq hN)⟩

theorem isWordOf_decodeFamilyE {w : Word} {i : Instr} (hF : fieldF w = 0xE#4) (h : decodeFamilyE w = .instr i) :
    isWordOf w i := by
  unfold decodeFamilyE at h
  split_ifs at h with hskp hsknp <;> cases h
  · exact ⟨rfl, wordXKK_of_fields hF hskp⟩
  · exact ⟨rfl, wordXKK_of_fields hF hsknp⟩

/-- Every branch keeps the register field and has its trailing byte from the test that selects it. -/
theorem isWordOf_decodeFamilyF {w : Word} {i : Instr} (hF : fieldF w = 0xF#4) (h : decodeFamilyF w = .instr i) :
    isWordOf w i := by
  unfold decodeFamilyF at h
  split_ifs at h <;> cases h
  all_goals exact ⟨rfl, wordXKK_of_fields hF ‹_›⟩

/-- A word has one decoding. -/
theorem isWordOf_of_decodes_to {w : Word} {i j : Instr} (hi : decode w = .instr i) (hj : decode w = .instr j)
    (word : isWordOf w j) : isWordOf w i := by
  cases hi.symm.trans hj
  exact word

theorem isWordOf_of_decode {w : Word} {i : Instr} (h : decode w = .instr i) : isWordOf w i := by
  obtain hF | hF | hF | hF | hF | hF | hF | hF | hF | hF | hF | hF | hF | hF | hF | hF := nibble_cases (fieldF w)
  · exact isWordOf_decodeFamily0 hF (decode_family0 hF ▸ h)
  · exact isWordOf_of_decodes_to h (decode_family1 hF) ⟨rfl, wordNNN_of_fields hF⟩
  · exact isWordOf_of_decodes_to h (decode_family2 hF) ⟨rfl, wordNNN_of_fields hF⟩
  · exact isWordOf_of_decodes_to h (decode_family3 hF) ⟨rfl, wordXKK_of_fields hF rfl⟩
  · exact isWordOf_of_decodes_to h (decode_family4 hF) ⟨rfl, wordXKK_of_fields hF rfl⟩
  · exact isWordOf_decodeFamily5 hF (decode_family5 hF ▸ h)
  · exact isWordOf_of_decodes_to h (decode_family6 hF) ⟨rfl, wordXKK_of_fields hF rfl⟩
  · exact isWordOf_of_decodes_to h (decode_family7 hF) ⟨rfl, wordXKK_of_fields hF rfl⟩
  · exact isWordOf_decodeFamily8 hF (decode_family8 hF ▸ h)
  · exact isWordOf_decodeFamily9 hF (decode_family9 hF ▸ h)
  · exact isWordOf_of_decodes_to h (decode_familyA hF) ⟨rfl, wordNNN_of_fields hF⟩
  · exact isWordOf_of_decodes_to h (decode_familyB hF) ⟨rfl, wordNNN_of_fields hF⟩
  · exact isWordOf_of_decodes_to h (decode_familyC hF) ⟨rfl, wordXKK_of_fields hF rfl⟩
  · exact isWordOf_of_decodes_to h (decode_familyD hF) ⟨rfl, wordXYN_of_fields hF rfl⟩
  · exact isWordOf_decodeFamilyE hF (decode_familyE hF ▸ h)
  · exact isWordOf_decodeFamilyF hF (decode_familyF hF ▸ h)

/-- Settles O3: `isWordOf_of_decode`, a case per family, where the fields read make up the word. -/
theorem encodeOfDecodeIsIdentity : Obligations.EncodeOfDecodeIsIdentity := fun _ _ => isWordOf_of_decode

/-! ## Reserved words and the exact words of family 0 -/

theorem decodeFamily8_reserved {w u : Word} :
    decodeFamily8 w = .reserved u ↔ u = w ∧ (0x8 ≤ (fieldN w).toNat ∧ (fieldN w).toNat ≤ 0xD ∨ fieldN w = 0xF#4) := by
  obtain hN | hN | hN | hN | hN | hN | hN | hN | hN | hN | hN | hN | hN | hN | hN | hN := nibble_cases (fieldN w)
  all_goals simp [decodeFamily8, hN, eq_comm]

theorem decodeFamilyE_reserved {w u : Word} :
    decodeFamilyE w = .reserved u ↔ u = w ∧ fieldKK w ≠ 0x9E#8 ∧ fieldKK w ≠ 0xA1#8 := by
  unfold decodeFamilyE
  split_ifs with hskp hsknp
  · simp [hskp]
  · simp [hsknp]
  · simp [hskp, hsknp, eq_comm]

theorem decodeFamilyF_reserved {w u : Word} :
    decodeFamilyF w = .reserved u ↔
      u = w ∧ fieldKK w ∉ [0x07#8, 0x0A#8, 0x15#8, 0x18#8, 0x1E#8, 0x29#8, 0x33#8, 0x55#8, 0x65#8] := by
  unfold decodeFamilyF
  split_ifs
  all_goals simp [*, eq_comm (a := w)]

/-- Settles O5: a case per family; only the families 5, 8, 9, E and F have a branch that is reserved. -/
theorem reservedWordsAreUnknownSubOpcodes : Obligations.ReservedWordsAreUnknownSubOpcodes := by
  intro w u
  obtain hF | hF | hF | hF | hF | hF | hF | hF | hF | hF | hF | hF | hF | hF | hF | hF := nibble_cases (fieldF w)
  · rw [decode_family0 hF, decodeFamily0]
    split_ifs <;> simp [hF]
  · simp [decode_family1 hF, hF]
  · simp [decode_family2 hF, hF]
  · simp [decode_family3 hF, hF]
  · simp [decode_family4 hF, hF]
  · rw [decode_family5 hF, decodeFamily5]
    split_ifs with hN <;> simp [hF, hN, eq_comm]
  · simp [decode_family6 hF, hF]
  · simp [decode_family7 hF, hF]
  · simp [decode_family8 hF, decodeFamily8_reserved, hF]
  · rw [decode_family9 hF, decodeFamily9]
    split_ifs with hN <;> simp [hF, hN, eq_comm]
  · simp [decode_familyA hF, hF]
  · simp [decode_familyB hF, hF]
  · simp [decode_familyC hF, hF]
  · simp [decode_familyD hF, hF]
  · simp [decode_familyE hF, decodeFamilyE_reserved, hF]
  · simp [decode_familyF hF, decodeFamilyF_reserved, hF]

/-- Settles O6: a word that decodes to CLS or RET is the word that encodes it, by `isWordOf_of_decode`. -/
theorem onlyExactWordsAreClsAndRet : Obligations.OnlyExactWordsAreClsAndRet := by
  refine fun w => ⟨⟨fun h => (isWordOf_of_decode h).2.symm, ?_⟩, ⟨fun h => (isWordOf_of_decode h).2.symm, ?_⟩,
    fun hF hcls hret => (decode_family0 hF).trans (decodeFamily0_sys (fun h => hcls ?_) fun h => hret ?_)⟩
  · rintro rfl
    decide
  · rintro rfl
    decide
  · rw [← wordNNN_of_fields hF, h]
    decide
  · rw [← wordNNN_of_fields hF, h]
    decide

/-- Settles O1: every word is written out, so the decoder is run on each. -/
theorem wordsOfEveryFamilyDecode : Obligations.WordsOfEveryFamilyDecode := by
  unfold Obligations.WordsOfEveryFamilyDecode
  decide

end Sys2Proof

/-!
PROOFS. The instructions whose equation the texts before do not have: CLS, RET and JP V0 (40_system_flow.md), RND
(41_alu.md), the display and the keys (42_display_input.md), the timers (43_timers_keys.md) and the writes of I
(44_index_memory.md). Each has its equation, then its statement.
-/
namespace Sys2Proof

/-! ## The families E and F by their trailing byte (30_encoding.md R54) -/

theorem decodeFamilyE_skp {w : Word} (h : fieldKK w = 0x9E#8) : decodeFamilyE w = .instr (.skp (fieldX w)) := by
  simp [decodeFamilyE, h]

theorem decodeFamilyE_sknp {w : Word} (h : fieldKK w = 0xA1#8) : decodeFamilyE w = .instr (.sknp (fieldX w)) := by
  simp [decodeFamilyE, h]

theorem decodeFamilyF_ldVxDT {w : Word} (h : fieldKK w = 0x07#8) :
    decodeFamilyF w = .instr (.ldVxDT (fieldX w)) := by simp [decodeFamilyF, h]

theorem decodeFamilyF_ldVxK {w : Word} (h : fieldKK w = 0x0A#8) :
    decodeFamilyF w = .instr (.ldVxK (fieldX w)) := by simp [decodeFamilyF, h]

theorem decodeFamilyF_ldDTVx {w : Word} (h : fieldKK w = 0x15#8) :
    decodeFamilyF w = .instr (.ldDTVx (fieldX w)) := by simp [decodeFamilyF, h]

theorem decodeFamilyF_ldSTVx {w : Word} (h : fieldKK w = 0x18#8) :
    decodeFamilyF w = .instr (.ldSTVx (fieldX w)) := by simp [decodeFamilyF, h]

theorem decodeFamilyF_addI {w : Word} (h : fieldKK w = 0x1E#8) : decodeFamilyF w = .instr (.addI (fieldX w)) := by
  simp [decodeFamilyF, h]

theorem decodeFamilyF_ldF {w : Word} (h : fieldKK w = 0x29#8) : decodeFamilyF w = .instr (.ldF (fieldX w)) := by
  simp [decodeFamilyF, h]

end Sys2Proof

namespace Sys2Proof.Machine

/-! ## CLS -/

theorem exec_cls (s : State) : exec .cls s = .next (advancePC (clearScreen s)) := rfl

/-- After a `ClearScreen` no pixel is set (60_exceptions.md R127). -/
theorem pixel_replicate_zero (px py : Nat) : pixel px py (Vector.replicate 32 0#64) = false := by
  by_cases h : py < 32 <;> simp [pixel, h]

/-- Settles O20: CLS is the call and the advance of PC. -/
theorem clsClearsTheScreenOnly : Obligations.ClsClearsTheScreenOnly :=
  ⟨by decide, fun s => ⟨_, exec_cls s, rfl, pixel_replicate_zero, rfl, rfl, sameMemory_of_mem_eq rfl⟩⟩

/-! ## RET -/

/-- RET fails on these values of SP (40_system_flow.md R69). -/
def retOverflows (p : Byte) : Prop := 0x10 ≤ p.toNat ∧ p.toNat ≤ 0xFE

theorem retOverflows_iff (p : Byte) : retOverflows p ↔ 0x10#8 ≤ p ∧ p ≤ 0xFE#8 := by
  rw [retOverflows, BitVec.le_def, BitVec.le_def]
  rfl

theorem exec_ret_of_overflow {s : State} (h : retOverflows s.sp) :
    exec .ret s = .next (stop (.stackOverflow s.sp) s) := by
  rw [exec, execRet, if_pos ((retOverflows_iff s.sp).1 h)]
  rfl

theorem exec_ret_of_entry {s : State} (h : ¬retOverflows s.sp) :
    exec .ret s = .next (advancePC { jumpTo (readStack s.sp s) s with sp := s.sp - 1#8 }) := by
  rw [exec, execRet, if_neg (mt (retOverflows_iff s.sp).2 h)]
  rfl

theorem val_stackIndex (p : Byte) : (stackIndex p).val = p.toNat % 16 := by simp [stackIndex]

/-- The entry that RET reads lies in the stack for every SP (40_system_flow.md R69). -/
theorem some_readStack (p : Byte) (s : State) : some (readStack p s) = s.stack[p.toNat % 16]? := by
  rw [← val_stackIndex, Vector.getElem?_eq_getElem (stackIndex p).isLt]
  rfl

/-- Below 0 comes the empty stack (40_system_flow.md R69). -/
theorem toNat_sub_one_byte (p : Byte) : (p - 1#8).toNat = if p.toNat = 0 then 0xFF else p.toNat - 1 := by
  split <;> bv_omega

/-- Settles O21: the two equations of RET, and the entry popped as an entry of the stack. -/
theorem retPopsOrOverflows : Obligations.RetPopsOrOverflows := by
  refine ⟨by decide, fun s low high => exec_ret_of_overflow ⟨low, high⟩, fun s hsp => ?_⟩
  have entry : ¬retOverflows s.sp := by
    unfold retOverflows
    omega
  refine ⟨_, exec_ret_of_entry entry, ?_, toNat_sub_one_byte s.sp, rfl, sameMemory_of_mem_eq rfl⟩
  rw [← some_readStack]
  rfl

/-! ## JP V0, and a CALL with its RET -/

theorem exec_jpV0 (nnn : Addr12) (s : State) :
    exec (.jpV0 nnn) s = .next (jumpTo (addrWord nnn + byteWord (readReg 0 s) + 2#16) s) := rfl

/-- Zero extension keeps the number (30_encoding.md R55). -/
@[simp] theorem toNat_byteWord (u : Byte) : (byteWord u).toNat = u.toNat := BitVec.toNat_setWidth_of_le (by decide)

/-- The largest target, 0xFFF + 0xFF + 2, is a 16-bit number (40_system_flow.md R71). -/
theorem toNat_jpV0_target (nnn : Addr12) (u : Byte) :
    (addrWord nnn + byteWord u + 2#16).toNat = nnn.toNat + u.toNat + 2 := by
  have small := nnn.isLt
  have smallByte := u.isLt
  rw [BitVec.toNat_add, BitVec.toNat_add, toNat_addrWord, toNat_byteWord, BitVec.toNat_ofNat]
  omega

/-- Settles O23: JP V0 is a jump to the sum, which does not overflow. -/
theorem jpV0ContinuesTwoPastItsTarget : Obligations.JpV0ContinuesTwoPastItsTarget :=
  ⟨fun _ => decode_familyB, fun nnn s => ⟨_, exec_jpV0 nnn s, toNat_jpV0_target nnn _, onlyPC_jumpTo _ s⟩⟩

theorem not_retOverflows_spAfterCall (p : Byte) : ¬retOverflows (spAfterCall p) := fun ⟨low, _⟩ =>
  absurd (toNat_spAfterCall_lt p) (Nat.not_lt.2 low)

theorem spAfterCall_sub_one {p : Byte} (h : p.toNat ≤ 14 ∨ p = 0xFF#8) : spAfterCall p - 1#8 = p := by
  apply BitVec.eq_of_toNat_eq
  rw [toNat_sub_one_byte, toNat_spAfterCall]
  obtain low | rfl := h
  · simp [low]
  · rfl

theorem readStack_pushStack (p : Byte) (a : Word) (s : State) : readStack p (pushStack p a s) = a := by
  simp [readStack]

/-- Settles O25: RET pops the entry CALL has pushed, and takes one off the SP that CALL has raised. -/
theorem callThenRetComesBack : Obligations.CallThenRetComesBack := by
  intro nnn s hsp
  have room : s.sp ≠ 15#8 := by
    rintro h
    rw [h] at hsp
    revert hsp
    decide
  have ret := exec_ret_of_entry (s := jumpTo (addrWord nnn) (pushStack (spAfterCall s.sp) s.pc s))
    (not_retOverflows_spAfterCall s.sp)
  rw [jumpTo_sp, pushStack_sp, spAfterCall_sub_one hsp] at ret
  exact ⟨_, _, exec_call_of_room nnn room, ret,
    congrArg (· + 2#16) (readStack_pushStack (spAfterCall s.sp) s.pc s), rfl, rfl⟩

/-! ## RND -/

theorem exec_rnd (x : Reg) (kk : Byte) (s : State) :
    exec (.rnd x kk) s = .next (advancePC (writeReg x (randomAnswer s &&& kk) (afterRandom s))) := rfl

theorem randomAnswer_supplied {s : State} {r : Byte} {rest : List Byte} (h : s.randomTape = r :: rest) :
    randomAnswer s = r := by rw [randomAnswer, h]

theorem randomAnswer_free {s : State} (h : s.randomTape = []) :
    randomAnswer s = Config.randomByte s.calls.length := by rw [randomAnswer, h]

/-- Settles O35: one call, whose answer is masked bit by bit. -/
theorem rndMasksOneRandomByte : Obligations.RndMasksOneRandomByte := by
  refine ⟨fun _ => decode_familyC, fun x kk s => ⟨_, randomAnswer s, exec_rnd x kk s, fun k => ?_,
    fun b rest tape => ⟨randomAnswer_supplied tape, congrArg List.tail tape⟩,
    fun tape => ⟨randomAnswer_free tape, congrArg List.tail tape⟩, rfl, fun r hr => ?_, rfl, rfl,
    sameMemory_of_mem_eq rfl⟩⟩
  · rw [readReg_advancePC, readReg_writeReg_same, BitVec.getLsbD_and]
  · exact readReg_writeReg_ne _ (afterRandom s) (List.ne_of_not_mem_cons hr)

/-! ## DRW -/

/-- The state once the Renderer has answered the `Draw` of a DRW (42_display_input.md R90). -/
def drawn (x y : Reg) (n : BitVec 4) (s : State) : State :=
  afterDraw (spriteX x s) (spriteY y s) (spriteRows n s) s

/-- The Renderer's answer to the `Draw` of a DRW. -/
def answerToDraw (x y : Reg) (n : BitVec 4) (s : State) : DrawAnswer :=
  drawAnswer (spriteX x s) (spriteY y s) (spriteRows n s) s

theorem writeReg_readReg (r : Reg) (s : State) : writeReg r (readReg r s) s = s := by simp [writeReg, readReg]

theorem exec_drw_of_error {x y : Reg} {n : BitVec 4} {s : State} (h : (answerToDraw x y n s).errorCode ≠ 0) :
    exec (.drw x y n) s = .next (stop (.error (answerToDraw x y n s).errorCode) (drawn x y n s)) :=
  if_pos h

/-- VF is written with 1 on a collision, else with the value it has. -/
theorem exec_drw_of_no_error {x y : Reg} {n : BitVec 4} {s : State} (h : (answerToDraw x y n s).errorCode = 0) :
    exec (.drw x y n) s =
      .next (advancePC (writeReg vf (if (answerToDraw x y n s).collision then 1#8 else readReg vf s)
        (drawn x y n s))) := by
  have kept : writeReg vf (readReg vf s) (drawn x y n s) = drawn x y n s := writeReg_readReg vf (drawn x y n s)
  refine (if_neg (not_not.2 h)).trans (congrArg (finish .incrementPC) ?_)
  change (if (answerToDraw x y n s).collision then writeReg vf 1#8 (drawn x y n s) else drawn x y n s) = _
  cases (answerToDraw x y n s).collision
  · exact kept.symm
  · rfl

theorem answerToDraw_supplied (x y : Reg) (n : BitVec 4) {s : State} {a : DrawAnswer} {rest : List DrawAnswer}
    (h : s.drawTape = a :: rest) : answerToDraw x y n s = a := by rw [answerToDraw, drawAnswer, h]

theorem answerToDraw_reference (x y : Reg) (n : BitVec 4) {s : State} (h : s.drawTape = []) :
    answerToDraw x y n s =
      ⟨(referenceDraw (spriteX x s) (spriteY y s) (spriteRows n s) s.doWrap s.fb).1, 0⟩ := by
  rw [answerToDraw, drawAnswer, h]

theorem toNat_spriteX (x : Reg) (s : State) : (spriteX x s).toNat = (readReg x s).toNat % 64 := BitVec.toNat_umod

theorem toNat_spriteY (y : Reg) (s : State) : (spriteY y s).toNat = (readReg y s).toNat % 32 := BitVec.toNat_umod

theorem length_spriteRows (n : BitVec 4) (s : State) : (spriteRows n s).length = n.toNat := length_readBytes _ _ s

/-- The row count of a `Draw` is the length of its rows, at most 15 (60_exceptions.md R122). -/
theorem toNat_rowCount (n : BitVec 4) (s : State) :
    (BitVec.ofNat 8 (spriteRows n s).length).toNat = n.toNat := by
  rw [length_spriteRows, BitVec.toNat_ofNat]
  exact Nat.mod_eq_of_lt (n.isLt.trans (by decide))

/-- The one call a DRW makes, as the statements about it say it. -/
def makesDrawCall (x y : Reg) (n : BitVec 4) (s t : State) : Prop :=
  ∃ xs ys rowCount, t.calls =
      .draw xs ys ((List.range n.toNat).map fun r => readByte (s.i.toNat + r) s) rowCount s.doWrap :: s.calls ∧
    xs.toNat = (readReg x s).toNat % 64 ∧ ys.toNat = (readReg y s).toNat % 32 ∧ rowCount.toNat = n.toNat

theorem makesDrawCall_drawn (x y : Reg) (n : BitVec 4) (s : State) : makesDrawCall x y n s (drawn x y n s) :=
  ⟨_, _, _, rfl, toNat_spriteX x s, toNat_spriteY y s, toNat_rowCount n s⟩

/-- Settles O36: the supplied answer decides between the two equations of DRW. -/
theorem drwFollowsTheRenderersAnswer : Obligations.DrwFollowsTheRenderersAnswer := by
  refine ⟨fun _ => decode_familyD, fun x y n s a rest tape => ?_⟩
  have answer : answerToDraw x y n s = a := answerToDraw_supplied x y n tape
  have consumed : s.drawTape.tail = rest := congrArg List.tail tape
  by_cases h : a.errorCode = 0
  · refine ⟨_, exec_drw_of_no_error (answer ▸ h), consumed, makesDrawCall_drawn x y n s, ?_, fun r hr => ?_, rfl,
      sameMemory_of_mem_eq rfl⟩
    · rw [if_pos h, answer]
      exact ⟨rfl, rfl, readReg_writeReg_same vf _ (drawn x y n s)⟩
    · exact readReg_writeReg_ne _ (drawn x y n s) (List.ne_of_not_mem_cons hr)
  · refine ⟨_, exec_drw_of_error (answer ▸ h), consumed, makesDrawCall_drawn x y n s, ?_, fun _ _ => rfl, rfl,
      sameMemory_of_mem_eq rfl⟩
    rw [if_neg h, answer]
    exact ⟨rfl, rfl, rfl⟩

/-- Settles O37: the reference Renderer reports no error, so DRW completes, and no answer is taken from the list. -/
theorem drwWithReferenceRendererCompletes : Obligations.DrwWithReferenceRendererCompletes := by
  intro x y n s tape
  have answer := answerToDraw_reference x y n tape
  refine ⟨_, exec_drw_of_no_error (by rw [answer]), makesDrawCall_drawn x y n s, rfl, ?_, fun r hr => ?_, rfl, ?_,
    sameMemory_of_mem_eq rfl⟩
  · rw [answer]
    exact readReg_writeReg_same vf _ (drawn x y n s)
  · exact readReg_writeReg_ne _ (drawn x y n s) (List.ne_of_not_mem_cons hr)
  · have untouched : (drawn x y n s).drawTape = s.drawTape := (congrArg List.tail tape).trans tape.symm
    rw [← untouched]
    rfl

/-! ## SKP and SKNP -/

theorem exec_skp (x : Reg) (s : State) :
    exec (.skp x) s =
      .next (jumpTo (s.pc + if keyAnswer (readReg x s) s then 4#16 else 2#16) (afterKeyTest (readReg x s) s)) :=
  finish_skipIf _ (afterKeyTest (readReg x s) s)

theorem exec_sknp (x : Reg) (s : State) :
    exec (.sknp x) s =
      .next (jumpTo (s.pc + if keyAnswer (readReg x s) s then 2#16 else 4#16) (afterKeyTest (readReg x s) s)) := by
  refine (finish_skipIf _ (afterKeyTest (readReg x s) s)).trans ?_
  cases keyAnswer (readReg x s) s <;> rfl

theorem keyAnswer_supplied (k : Byte) {s : State} {b : Bool} {rest : List Bool} (h : s.keyTape = b :: rest) :
    keyAnswer k s = b := by rw [keyAnswer, h]

theorem keyAnswer_free (k : Byte) {s : State} (h : s.keyTape = []) :
    keyAnswer k s = Config.keyLevel s.calls.length k := by rw [keyAnswer, h]

/-- Settles O39: both are a jump after the one call, by the net advance its answer gives. -/
theorem keySkipsFollowTheKeyLevel : Obligations.KeySkipsFollowTheKeyLevel :=
  ⟨fun _ hF hKK => (decode_familyE hF).trans (decodeFamilyE_skp hKK),
    fun _ hF hKK => (decode_familyE hF).trans (decodeFamilyE_sknp hKK), fun x s =>
    ⟨keyAnswer (readReg x s) s, _, _, exec_skp x s, exec_sknp x s,
      fun _ _ tape => ⟨keyAnswer_supplied _ tape, congrArg List.tail tape, congrArg List.tail tape⟩,
      fun tape => ⟨keyAnswer_free _ tape, congrArg List.tail tape, congrArg List.tail tape⟩,
      rfl, rfl, rfl, rfl, rfl, rfl, sameMemory_of_mem_eq rfl, sameMemory_of_mem_eq rfl⟩⟩

/-! ## The timers and the key wait -/

theorem exec_ldVxDT (x : Reg) (s : State) : exec (.ldVxDT x) s = .next (advancePC (writeReg x s.dt s)) := rfl

theorem exec_ldVxK (x : Reg) (s : State) :
    exec (.ldVxK x) s = .next { s with waitReg := x, suspended := true } := rfl

theorem exec_ldDTVx (x : Reg) (s : State) : exec (.ldDTVx x) s = .next (advancePC (writeDT (readReg x s) s)) := rfl

theorem exec_ldSTVx (x : Reg) (s : State) : exec (.ldSTVx x) s = .next (advancePC (writeST (readReg x s) s)) := rfl

/-- Settles O40: LD Vx, DT writes one register, with the timer. -/
theorem loadDelayTimerIntoRegister : Obligations.LoadDelayTimerIntoRegister :=
  ⟨fun _ hF hKK => (decode_familyF hF).trans (decodeFamilyF_ldVxDT hKK), fun x s =>
    ⟨_, exec_ldVxDT x s, readReg_writeReg_same x s.dt s, advancesButFor_writeReg x s.dt s⟩⟩

/-- Settles O41: each write is that of its timer and accumulator alone. -/
theorem timerWritesRestartTheirAccumulator : Obligations.TimerWritesRestartTheirAccumulator :=
  ⟨fun _ hF hKK => (decode_familyF hF).trans (decodeFamilyF_ldDTVx hKK),
    fun _ hF hKK => (decode_familyF hF).trans (decodeFamilyF_ldSTVx hKK), fun x s =>
    ⟨⟨_, exec_ldDTVx x s, rfl, rfl, rfl, rfl, sameMemory_of_mem_eq rfl⟩,
      ⟨_, exec_ldSTVx x s, rfl, rfl, rfl, rfl, sameMemory_of_mem_eq rfl⟩⟩⟩

/-- Settles O42: LD Vx, K writes the two elements of the suspend state. -/
theorem loadKeySuspends : Obligations.LoadKeySuspends :=
  ⟨fun _ hF hKK => (decode_familyF hF).trans (decodeFamilyF_ldVxK hKK), fun x s =>
    ⟨_, exec_ldVxK x s, rfl, rfl, rfl, rfl, rfl, sameMemory_of_mem_eq rfl⟩⟩

/-! ## The index register -/

theorem exec_ldI (nnn : Addr12) (s : State) : exec (.ldI nnn) s = .next (advancePC (setI (addrWord nnn) s)) := rfl

theorem exec_addI (x : Reg) (s : State) :
    exec (.addI x) s = .next (advancePC (setI (s.i + byteWord (readReg x s)) s)) := rfl

theorem exec_ldF (x : Reg) (s : State) :
    exec (.ldF x) s = .next (advancePC (setI (5#16 * byteWord (readReg x s)) s)) := rfl

theorem onlyIndexPC_setI (a : Word) (s : State) : onlyIndexPC s (advancePC (setI a s)) :=
  ⟨rfl, sameMemory_of_mem_eq rfl⟩

theorem toNat_add_byteWord (a : Word) (u : Byte) : (a + byteWord u).toNat = (a.toNat + u.toNat) % 0x10000 := by
  rw [BitVec.toNat_add, toNat_byteWord]

/-- The address of a glyph is a 16-bit number for every byte (44_index_memory.md R99). -/
theorem toNat_five_mul_byteWord (u : Byte) : (5#16 * byteWord u).toNat = 5 * u.toNat := by
  have small := u.isLt
  rw [BitVec.toNat_mul, toNat_byteWord, BitVec.toNat_ofNat]
  omega

/-- Settles O48: each writes I and advances PC, and its address as a number is the lemma about it. -/
theorem indexWritesLeaveFlagsAlone : Obligations.IndexWritesLeaveFlagsAlone :=
  ⟨fun _ => decode_familyA, fun _ hF hKK => (decode_familyF hF).trans (decodeFamilyF_addI hKK),
    fun _ hF hKK => (decode_familyF hF).trans (decodeFamilyF_ldF hKK),
    fun nnn s => ⟨_, exec_ldI nnn s, toNat_addrWord nnn, rfl, onlyIndexPC_setI _ s⟩, fun x s =>
    ⟨⟨_, exec_addI x s, toNat_add_byteWord s.i (readReg x s), rfl, onlyIndexPC_setI _ s⟩,
      ⟨_, exec_ldF x s, toNat_five_mul_byteWord (readReg x s), rfl, onlyIndexPC_setI _ s⟩⟩⟩

/-! ## A block stored and then loaded -/

/-- Settles O52: what the load reads (O51) is what the store has written (O50), and neither writes I. -/
theorem storeThenLoadRestoresRegisters : Obligations.StoreThenLoadRestoresRegisters := by
  intro x s f hwf
  obtain ⟨t, store, written, -, -, frame⟩ := storeRegistersWritesABlock.2 x s
  obtain ⟨u, load, loaded, -, frame', -⟩ := loadRegistersReadsABlock.2 x { t with v := Vector.ofFn f }
  have index : t.i = s.i := by rw [frame]
  refine ⟨t, u, store, load, fun r => ?_, by rw [frame', ← index]⟩
  rw [loaded r]
  split
  next hr =>
    calc readByte ((t.i.toNat + r.val) % 0x1000) { t with v := Vector.ofFn f }
      _ = readByte (t.i.toNat + r.val) { t with v := Vector.ofFn f } := readByte_mod_memSize _ _
      _ = readByte (s.i.toNat + r.val) t := by
        rw [index]
        exact readByte_congr _ rfl
      _ = readReg r s := written hwf r hr
  next => simp [readReg]

end Sys2Proof.Machine

/-!
PROOFS. What an instruction can change, said once for all 35 (`Effect`), and the statements about all instructions that
follow from it: which of them write memory, the writers of each element, and what a failure has changed.
-/
namespace Sys2Proof.Machine

/-- The instructions that write I (10_state.md R17). -/
def writesIndex (i : Instr) : Prop := (∃ a, i = .ldI a) ∨ (∃ x, i = .addI x) ∨ ∃ x, i = .ldF x

/-- The instructions that write memory (20_memory.md R38). -/
def writesMemory (i : Instr) : Prop := (∃ x, i = .ldB x) ∨ ∃ x, i = .storeRegs x

/-- The SP at which the instruction fails: CALL at 15, RET in 0x10..0xFE (60_exceptions.md R111). -/
def overflowsAt (i : Instr) (p : Byte) : Prop := (∃ a, i = .call a) ∧ p = 15#8 ∨ i = .ret ∧ retOverflows p

/-- `Effect s i t`: what the instruction `i` may have done to `s` when it ends in `t`. Each constructor is one way to
change the state, with the instructions that have it. -/
inductive Effect (s : State) : Instr → State → Prop where
  /-- General registers and PC: no instruction is barred from it. -/
  | registers (i : Instr) (v : Vector Byte 16) (pc : Word) : Effect s i { s with v := v, pc := pc }
  | index {i : Instr} (a : Word) (writer : writesIndex i) : Effect s i (advancePC (setI a s))
  | memory {i : Instr} (a : Nat) (us : List Byte) (writer : writesMemory i) : Effect s i (advancePC (writeBytes a us s))
  | pushes (nnn : Addr12) : Effect s (.call nnn) (jumpTo (addrWord nnn) (pushStack (spAfterCall s.sp) s.pc s))
  | pops (pc : Word) (entry : ¬retOverflows s.sp) : Effect s .ret { s with pc := pc, sp := s.sp - 1#8 }
  | delayTimer (x : Reg) (u : Byte) : Effect s (.ldDTVx x) (advancePC (writeDT u s))
  | soundTimer (x : Reg) (u : Byte) : Effect s (.ldSTVx x) (advancePC (writeST u s))
  | suspends (x : Reg) : Effect s (.ldVxK x) { s with waitReg := x, suspended := true }
  | clears : Effect s .cls (advancePC (clearScreen s))
  | random (x : Reg) (kk u : Byte) : Effect s (.rnd x kk) (advancePC (writeReg x u (afterRandom s)))
  | testsKey {i : Instr} {x : Reg} (a : Word) (tester : i = .skp x ∨ i = .sknp x) :
    Effect s i (jumpTo a (afterKeyTest (readReg x s) s))
  | draws (x y : Reg) (n : BitVec 4) (u : Byte) : Effect s (.drw x y n) (advancePC (writeReg vf u (drawn x y n s)))
  | drawFails (x y : Reg) (n : BitVec 4) {code : Int} (failure : code ≠ 0) :
    Effect s (.drw x y n) (stop (.error code) (drawn x y n s))
  | overflows {i : Instr} (cause : overflowsAt i s.sp) : Effect s i (stop (.stackOverflow s.sp) s)
  | notImplemented (nnn : Addr12) : Effect s (.sys nnn) (stop (.notImplemented (addrWord nnn)) s)

/-- Every instruction ends in a next state, which it reaches in one of the ways of `Effect`. -/
theorem exec_effect (i : Instr) (s : State) : ∃ t, exec i s = .next t ∧ Effect s i t := by
  cases i
  case sys nnn => exact ⟨_, exec_sys nnn s, .notImplemented nnn⟩
  case cls => exact ⟨_, exec_cls s, .clears⟩
  case ret =>
    by_cases h : retOverflows s.sp
    · exact ⟨_, exec_ret_of_overflow h, .overflows (.inr ⟨rfl, h⟩)⟩
    · exact ⟨_, exec_ret_of_entry h, .pops _ h⟩
  case call nnn =>
    by_cases h : s.sp = 15#8
    · exact ⟨_, exec_call_of_full nnn h, h ▸ .overflows (.inl ⟨⟨nnn, rfl⟩, h⟩)⟩
    · exact ⟨_, exec_call_of_room nnn h, .pushes nnn⟩
  case rnd x kk => exact ⟨_, exec_rnd x kk s, .random x kk _⟩
  case drw x y n =>
    by_cases h : (answerToDraw x y n s).errorCode = 0
    · exact ⟨_, exec_drw_of_no_error h, .draws x y n _⟩
    · exact ⟨_, exec_drw_of_error h, .drawFails x y n h⟩
  case skp x => exact ⟨_, exec_skp x s, .testsKey _ (.inl rfl)⟩
  case sknp x => exact ⟨_, exec_sknp x s, .testsKey _ (.inr rfl)⟩
  case ldVxK x => exact ⟨_, exec_ldVxK x s, .suspends x⟩
  case ldDTVx x => exact ⟨_, exec_ldDTVx x s, .delayTimer x _⟩
  case ldSTVx x => exact ⟨_, exec_ldSTVx x s, .soundTimer x _⟩
  case ldI a => exact ⟨_, exec_ldI a s, .index _ (.inl ⟨a, rfl⟩)⟩
  case addI x => exact ⟨_, exec_addI x s, .index _ (.inr (.inl ⟨x, rfl⟩))⟩
  case ldF x => exact ⟨_, exec_ldF x s, .index _ (.inr (.inr ⟨x, rfl⟩))⟩
  case ldB x => exact ⟨_, exec_ldB x s, .memory _ _ (.inl ⟨x, rfl⟩)⟩
  case storeRegs x => exact ⟨_, exec_storeRegs x s, .memory _ _ (.inr ⟨x, rfl⟩)⟩
  case seByte x kk => exact ⟨_, exec_seByte x kk s, .registers _ s.v _⟩
  case sneByte x kk => exact ⟨_, exec_sneByte x kk s, .registers _ s.v _⟩
  case seReg x y => exact ⟨_, exec_seReg x y s, .registers _ s.v _⟩
  case sneReg x y => exact ⟨_, exec_sneReg x y s, .registers _ s.v _⟩
  all_goals exact ⟨_, rfl, .registers _ _ _⟩

theorem effect_of_exec {i : Instr} {s t : State} (h : exec i s = .next t) : Effect s i t := by
  obtain ⟨u, hu, effect⟩ := exec_effect i s
  cases hu.symm.trans h
  exact effect

/-! ## The statements about all instructions -/

theorem Effect.mem_eq {i : Instr} {s t : State} (h : Effect s i t) (reader : ¬writesMemory i) : t.mem = s.mem := by
  cases h
  case memory _ _ writer => exact absurd writer reader
  all_goals rfl

theorem Effect.doWrap_eq {i : Instr} {s t : State} (h : Effect s i t) : t.doWrap = s.doWrap := by
  cases h
  case memory a us _ => exact writeBytes_doWrap us a s
  all_goals rfl

theorem Effect.sound_eq {i : Instr} {s t : State} (h : Effect s i t) (notST : ∀ x, i ≠ .ldSTVx x) :
    t.st = s.st ∧ t.accST = s.accST := by
  cases h
  case soundTimer x _ => exact absurd rfl (notST x)
  case memory a us _ => exact ⟨writeBytes_st us a s, writeBytes_accST us a s⟩
  all_goals exact ⟨rfl, rfl⟩

/-- Settles O18: the one effect on memory is that of LD B and LD [I]. -/
theorem onlyBlockStoresWriteMemory : Obligations.OnlyBlockStoresWriteMemory := by
  intro i s t notB notStore h
  have reader : ¬writesMemory i := by
    rintro (⟨x, hx⟩ | ⟨x, hx⟩)
    · exact notB x hx
    · exact notStore x hx
  have mem : t.mem = s.mem := (effect_of_exec h).mem_eq reader
  exact ⟨mem, sameMemory_of_mem_eq mem⟩

/-- Settles O53: of the effects on an active core only the four stops leave it stopped. -/
theorem failingInstructionChangesNoState : Obligations.FailingInstructionChangesNoState := by
  intro i s t r active h stopped
  cases effect_of_exec h
  case drawFails | overflows | notImplemented =>
    cases stopped
    exact ⟨rfl, rfl⟩
  all_goals
    exfalso
    simp [active, drawn] at stopped

/-- Settles O54: each element is written by the effects that name it, and those by their instructions. -/
theorem eachElementHasItsWriters : Obligations.EachElementHasItsWriters := by
  intro i s t h
  cases effect_of_exec h
  case index writer =>
    obtain ⟨b, rfl⟩ | ⟨x, rfl⟩ | ⟨x, rfl⟩ := writer <;> simp
  case testsKey tester =>
    obtain rfl | rfl := tester <;> simp [callsPort]
  all_goals simp [callsPort, drawn]

end Sys2Proof.Machine

/-!
PROOFS. The Tick (60_exceptions.md R104 to R107, R117 to R119; 20_memory.md R39): the equation of each way it can end,
the fetch, the drain event by event, and the timers.
-/
namespace Sys2Proof.Machine

/-! ## The ways a step can end -/

theorem step_of_tick {s : State} {d : Time} {es : List InputEvent} (h : hostAction s = .tick d es) :
    step s = tick d es (takeAction s) := by rw [step, h, perform]

section
variable {s u : State} {d : Time} {es : List InputEvent}

theorem tick_of_quit (active : s.run = .active) (h : drained d es s = (true, u)) :
    tick d es s = .next (stop .quit u) := by
  rw [tick, whenActive_of_active active, tickPrologue, h]

theorem tick_of_wait (active : s.run = .active) (h : drained d es s = (false, u)) (waiting : u.suspended = true) :
    tick d es s = .next u := by
  have halted : tickPrologue d es s = .halted u := by
    rw [tickPrologue, h]
    exact if_pos waiting
  rw [tick, whenActive_of_active active, halted]

theorem tick_of_ready (active : s.run = .active) (h : drained d es s = (false, u)) (running : u.suspended = false) :
    tick d es s = executeStep u := by
  rw [tick, whenActive_of_active active, tickPrologue_ready.2 ⟨h, running⟩]

end

theorem executeStep_of_instr {s : State} {i : Instr} (h : decodeBytes (fetchHigh s) (fetchLow s) = .instr i) :
    executeStep s = exec i s := by rw [executeStep, h]

theorem executeStep_of_reserved {s : State} {w : Word} (h : decodeBytes (fetchHigh s) (fetchLow s) = .reserved w) :
    executeStep s = .next (stop (.notImplemented w) s) := by
  rw [executeStep, h]
  rfl

/-- The executing step of an active machine whose action is a Tick. -/
theorem step_of_ready {s t : State} {d : Time} {es : List InputEvent} (action : hostAction s = .tick d es)
    (active : s.run = .active) (h : drained d es (takeAction s) = (false, t)) (running : t.suspended = false) :
    step s = executeStep t :=
  (step_of_tick action).trans (tick_of_ready active h running)

/-- While the core runs a drain without a Quit discards its events (60_exceptions.md R106). -/
theorem drainEvents_of_running {s : State} {es : List InputEvent} (running : s.suspended = false)
    (noQuit : ∀ e ∈ es, e ≠ .quit) : drainEvents es s = (false, { s with pending := [] }) := by
  obtain ⟨answer, pending⟩ := drainEvents_no_quit es s noQuit
  exact Prod.ext answer ((drainEvents_running es s running).trans (by rw [pending]))

/-- Settles O7: the step is the execute step, whose word is an instruction, and the drain is that of a running core. -/
theorem stepRunsDecodedInstruction : Obligations.StepRunsDecodedInstruction :=
  ⟨fun _ _ _ _ _ action active h running word =>
    (step_of_ready action active h running).trans (executeStep_of_instr word),
    fun _ _ _ running noQuit => drainEvents_of_running running noQuit⟩

/-- Settles O8: as O7, with a word that is reserved. -/
theorem stepStopsOnReservedWord : Obligations.StepStopsOnReservedWord :=
  fun _ _ _ _ _ action active h running word =>
    (step_of_ready action active h running).trans (executeStep_of_reserved word)

/-! ## The fetch -/

/-- An instruction word as a number (20_memory.md R39). -/
theorem toNat_wordOfBytes (hi lo : Byte) : (wordOfBytes hi lo).toNat = hi.toNat * 256 + lo.toNat := by
  rw [wordOfBytes, BitVec.toNat_append, ← Nat.shiftLeft_add_eq_or_of_lt lo.isLt, Nat.shiftLeft_eq]

/-- A PC that has wrapped around 16 bits reduces to the same address (20_memory.md R36). -/
theorem reduceAddr_pc_succ (pc : Word) : reduceAddr (pc + 1#16).toNat = reduceAddr (pc.toNat + 1) := by
  rw [BitVec.toNat_add, BitVec.toNat_ofNat, reduceAddr, reduceAddr, Config.memSize]
  omega

theorem readByte_of_reduceAddr_eq {a b : Nat} (s : State) (h : reduceAddr a = reduceAddr b) :
    readByte a s = readByte b s := by rw [readByte, readByte, h]

theorem fetchLow_eq (s : State) : fetchLow s = readByte (s.pc.toNat + 1) s :=
  readByte_of_reduceAddr_eq s (reduceAddr_pc_succ s.pc)

/-- Settles O11: the two bytes make up the word, and the address of the second one is reduced. -/
theorem fetchIsBigEndianAndWraps : Obligations.FetchIsBigEndianAndWraps := by
  refine fun s => ⟨?_, fun top => ?_⟩
  · rw [toNat_wordOfBytes, fetchLow_eq]
    rfl
  · rw [fetchLow_eq]
    apply readByte_of_reduceAddr_eq
    rw [reduceAddr, reduceAddr, Config.memSize]
    omega

theorem reduceAddr_succ_ne (a : Nat) : reduceAddr a ≠ reduceAddr (a + 1) := by
  rw [reduceAddr, reduceAddr, Config.memSize]
  omega

/-- The two bytes written at PC are those fetched, since their addresses stay distinct when they wrap. -/
theorem fetch_withFetchWord {s : State} (hwf : s.mem.wf) (w : Nat) :
    fetchHigh (s.withFetchWord 16 w) = highByte (tableWord 16 w) ∧
      fetchLow (s.withFetchWord 16 w) = lowByte (tableWord 16 w) := by
  have distinct : reduceAddr s.pc.toNat ≠ reduceAddr (s.pc + 1#16).toNat :=
    reduceAddr_pc_succ s.pc ▸ reduceAddr_succ_ne s.pc.toNat
  exact ⟨(readByte_writeByte_ne _ _ distinct).trans (readByte_writeByte_same _ hwf rfl),
    readByte_writeByte_same _ (writeByte_wf _ _ hwf) rfl⟩

theorem decodeBytes_of_decodeTableWord {n w : Nat} {i : Instr} (h : decodeTableWord n w = some i) :
    decodeBytes (highByte (tableWord n w)) (lowByte (tableWord n w)) = .instr i := by
  unfold decodeTableWord at h
  split at h
  next j word =>
    cases h
    exact word
  next => cases h

/-- Settles O10: nothing comes before the execute step, which fetches the word placed. -/
theorem placedWordIsRunByTheNextStep : Obligations.PlacedWordIsRunByTheNextStep := by
  intro s w i hwf word
  obtain ⟨high, low⟩ := fetch_withFetchWord hwf w
  refine (step_of_ready (t := timerUpdate 0 (s.withFetchWord 16 w)) rfl rfl rfl rfl).trans (executeStep_of_instr ?_)
  change decodeBytes (fetchHigh (s.withFetchWord 16 w)) (fetchLow (s.withFetchWord 16 w)) = .instr i
  rw [high, low]
  exact decodeBytes_of_decodeTableWord word

/-! ## The drain -/

/-- A None is ignored (92_eei_decisions.md D16). -/
theorem drainEvents_none_append (es : List InputEvent) (s : State) : ∀ {before : List InputEvent},
    (∀ e ∈ before, e = .none) → drainEvents (before ++ es) s = drainEvents es s
  | [], _ => rfl
  | e :: before, h => by
    obtain ⟨rfl, rest⟩ := List.forall_mem_cons.1 h
    exact drainEvents_none_append (before := before) es s rest

theorem drainEvents_keyDown_of_suspended {s : State} (waiting : s.suspended = true) (k : Key) (es : List InputEvent) :
    drainEvents (.keyDown k :: es) s = drainEvents es (resume k s) := if_pos waiting

/-- The drain ends at its first Quit and leaves the events after it (92_eei_decisions.md D15). -/
theorem drainEvents_of_quit (after : List InputEvent) : ∀ {before : List InputEvent} (s : State),
    (∀ e ∈ before, e ≠ .quit) →
      (drainEvents (before ++ .quit :: after) s).1 = true ∧
        (drainEvents (before ++ .quit :: after) s).2.pending = after
  | [], _, _ => ⟨rfl, rfl⟩
  | .quit :: _, _, h => absurd rfl (h .quit (by simp))
  | .none :: before, s, h => drainEvents_of_quit after (before := before) s (List.forall_mem_cons.1 h).2
  | .keyDown k :: before, s, h => by
    have rest := (List.forall_mem_cons.1 h).2
    rw [List.cons_append, drainEvents]
    split
    · exact drainEvents_of_quit after (resume k s) rest
    · exact drainEvents_of_quit after s rest

/-- A core that runs is left as it was by a drain that a Quit ends. -/
theorem drainEvents_quit_of_running {s : State} {before : List InputEvent} (after : List InputEvent)
    (running : s.suspended = false) (noQuit : ∀ e ∈ before, e ≠ .quit) :
    (drainEvents (before ++ .quit :: after) s).2 = { s with pending := after } := by
  rw [drainEvents_running _ s running, (drainEvents_of_quit after s noQuit).2]

/-- Settles O45: every event is a None, and the core still waits after the drain. -/
theorem waitGoesOnWithoutKey : Obligations.WaitGoesOnWithoutKey := by
  intro s d es action active waiting ignored
  have h : drained d es (takeAction s) = (false, { timerUpdate d (takeAction s) with pending := [] }) :=
    (congrArg (drainEvents · (timerUpdate d (takeAction s))) (List.append_nil _).symm).trans
      (drainEvents_none_append [] _ ignored)
  exact (step_of_tick action).trans (tick_of_wait active h waiting)

/-- What the statements about the end of a wait say of the state `resume` leaves (60_exceptions.md R117). -/
theorem resume_effect (k : Key) (s : State) :
    (readReg s.waitReg (resume k s)).toNat = k.val ∧ sameRegsBut [s.waitReg] s (resume k s) := by
  refine ⟨?_, fun r hr => ?_⟩
  · have value : readReg s.waitReg (resume k s) = BitVec.ofNat 8 k.val := readReg_writeReg_same s.waitReg _ s
    rw [value, BitVec.toNat_ofNat]
    exact Nat.mod_eq_of_lt (k.isLt.trans (by decide))
  · exact readReg_writeReg_ne _ s (List.ne_of_not_mem_cons hr)

/-- Settles O46: the Nones before the KeyDown are ignored, and after the resume the drain is that of a running core. -/
theorem firstKeyDownEndsTheWait : Obligations.FirstKeyDownEndsTheWait := by
  intro s d es before after k waiting ignored noQuit events
  have h : drained d es s = (false, { resume k (timerUpdate d s) with pending := [] }) := by
    rw [drained, events, drainEvents_none_append _ _ ignored,
      drainEvents_keyDown_of_suspended (s := timerUpdate d s) waiting, drainEvents_of_running rfl noQuit]
  obtain ⟨key, others⟩ := resume_effect k (timerUpdate d s)
  exact ⟨_, h, key, others, rfl, rfl, rfl, rfl, rfl⟩

/-- Settles O47: the drain answers true whatever came before the Quit. What it leaves is the state of a running core, or
of one that waits and has met only Nones, or of one that has resumed. -/
theorem quitStopsTheTickBeforeExecution : Obligations.QuitStopsTheTickBeforeExecution := by
  intro s d es before after action active events noQuit
  obtain ⟨answer, pending⟩ := drainEvents_of_quit after (timerUpdate d (takeAction s)) noQuit
  rw [← events] at answer pending
  have quit : drained d es (takeAction s) = (true, (drained d es (takeAction s)).2) := Prod.ext answer rfl
  refine ⟨_, (step_of_tick action).trans (tick_of_quit active quit), rfl, rfl, pending, fun calm => ?_,
    fun k rest pre waiting parts ignored => ?_⟩
  · have left : (drained d es (takeAction s)).2 = { timerUpdate d (takeAction s) with pending := after } := by
      rw [drained, takeAction_pending, events]
      obtain noKey | running := calm
      · have ignored : ∀ e ∈ before, e = .none := fun
          | .keyDown k, he => absurd he (noKey k)
          | .quit, he => absurd rfl (noQuit _ he)
          | .none, _ => rfl
        rw [drainEvents_none_append _ _ ignored]
        rfl
      · exact drainEvents_quit_of_running after running noQuit
    rw [left]
    rfl
  · have noQuit' : ∀ e ∈ rest, e ≠ .quit := fun e he => noQuit e (by simp [parts, he])
    have left : (drained d es (takeAction s)).2 =
        { resume k (timerUpdate d (takeAction s)) with pending := after } := by
      rw [drained, takeAction_pending, events, parts, List.append_assoc, drainEvents_none_append _ _ ignored,
        List.cons_append, drainEvents_keyDown_of_suspended (s := timerUpdate d (takeAction s)) waiting,
        drainEvents_quit_of_running after rfl noQuit']
    obtain ⟨key, others⟩ := resume_effect k (timerUpdate d (takeAction s))
    rw [left]
    exact ⟨key, others, rfl, rfl, rfl, rfl⟩

/-! ## The timers -/

/-- One timer with its accumulator over one update (60_exceptions.md R119). -/
theorem timer_after (t : Byte) (acc d : Time) :
    if acc + d < Config.timerPeriod then accAfter acc d = acc + d ∧ timerAfter t acc d = t
    else accAfter acc d + Config.timerPeriod = acc + d ∧ (timerAfter t acc d).toNat = t.toNat - 1 := by
  split
  next below => exact ⟨if_neg (Nat.not_le.2 below), if_neg (Nat.not_le.2 below)⟩
  next below =>
    have reached : Config.timerPeriod ≤ acc + d := Nat.not_lt.1 below
    refine ⟨?_, ?_⟩
    · rw [accAfter, if_pos reached]
      exact Nat.sub_add_cancel reached
    · rw [timerAfter, if_pos reached]
      split
      next zero =>
        rw [zero]
        rfl
      next => bv_omega

/-- Settles O43: the two timers are updated alike, each from its own accumulator. -/
theorem timersDecrementOncePerPeriod : Obligations.TimersDecrementOncePerPeriod := fun d s =>
  ⟨timer_after s.dt s.accDT d, timer_after s.st s.accST d, rfl⟩

/-- The time of one update is in the accumulator or was spent on a decrement, unless the timer was already 0. -/
theorem time_of_timer_after (t : Byte) (acc d : Time) (running : (timerAfter t acc d).toNat ≠ 0) :
    ∃ n, t.toNat = (timerAfter t acc d).toNat + n ∧ acc + d = accAfter acc d + Config.timerPeriod * n := by
  have h := timer_after t acc d
  split at h
  next =>
    obtain ⟨hacc, ht⟩ := h
    exact ⟨0, by rw [ht]; rfl, hacc.symm⟩
  next =>
    obtain ⟨hacc, ht⟩ := h
    exact ⟨1, by omega, by rw [Nat.mul_one, hacc]⟩

/-- The decrements and the time they took add up over a sequence of updates. -/
theorem time_of_timerUpdates (ds : List Time) (s : State)
    (running : (ds.foldl (fun u d => timerUpdate d u) s).dt ≠ 0#8) :
    ∃ n, s.dt.toNat = (ds.foldl (fun u d => timerUpdate d u) s).dt.toNat + n ∧
      s.accDT + ds.sum = (ds.foldl (fun u d => timerUpdate d u) s).accDT + Config.timerPeriod * n := by
  induction ds generalizing s with
  | nil => exact ⟨0, rfl, rfl⟩
  | cons d ds ih =>
    obtain ⟨n, hdt, hacc⟩ := ih (timerUpdate d s) running
    have final : (ds.foldl (fun u d => timerUpdate d u) (timerUpdate d s)).dt.toNat ≠ 0 := fun zero =>
      running (BitVec.eq_of_toNat_eq zero)
    obtain ⟨m, hdt', hacc'⟩ := time_of_timer_after s.dt s.accDT d (by rw [← timerUpdate_dt]; omega)
    rw [timerUpdate_dt] at hdt
    rw [timerUpdate_accDT] at hacc
    refine ⟨n + m, ?_, ?_⟩
    · rw [hdt', hdt, Nat.add_assoc, List.foldl_cons]
    · rw [List.foldl_cons, List.sum_cons, Nat.mul_add, ← Nat.add_assoc, hacc', Nat.add_right_comm, hacc, Nat.add_assoc]

/-- Settles O44: the number of decrements is the difference of the timer's values. -/
theorem delayTimerDoesNotDrift : Obligations.DelayTimerDoesNotDrift := by
  intro ds s running
  obtain ⟨n, hdt, hacc⟩ := time_of_timerUpdates ds s running
  rw [hdt, Nat.add_sub_cancel_left]
  exact ⟨Nat.le_add_right _ n, hacc⟩

end Sys2Proof.Machine

/-!
PROOFS. What every step keeps (10_state.md R22, 20_memory.md R49, 60_exceptions.md R110, R111, R122), and when there is
a step at all.
-/
namespace Sys2Proof.Machine

/-! ## When there is a next state (60_exceptions.md R110) -/

theorem executeStep_next (s : State) : ∃ t, executeStep s = .next t := by
  rcases word : decodeBytes (fetchHigh s) (fetchLow s) with i | w
  · obtain ⟨t, h, -⟩ := exec_effect i s
    exact ⟨t, (executeStep_of_instr word).trans h⟩
  · exact ⟨_, executeStep_of_reserved word⟩

theorem tick_of_active {s : State} (active : s.run = .active) (d : Time) (es : List InputEvent) :
    ∃ t, tick d es s = .next t := by
  rcases h : drained d es s with ⟨_ | _, u⟩
  · cases wait : u.suspended
    · obtain ⟨t, ht⟩ := executeStep_next u
      exact ⟨t, (tick_of_ready active h wait).trans ht⟩
    · exact ⟨u, tick_of_wait active h wait⟩
  · exact ⟨_, tick_of_quit active h⟩

theorem whenActive_of_stopped {s : State} {r : StopReason} (h : s.run = .stopped r) (o : Result) :
    whenActive s o = .refused .hostActionAfterStop := by rw [whenActive, h]

theorem step_of_hardReset {s : State} (action : hostAction s = .hardReset) :
    step s = .next (hardReset (takeAction s)) := by rw [step, action, perform]

theorem step_of_loadProgram {s : State} {bytes : List Byte} (active : s.run = .active)
    (action : hostAction s = .loadProgram bytes) : step s = .next (loadProgram bytes (takeAction s)) := by
  rw [step, action, perform, whenActive_of_active (s := takeAction s) active]

theorem step_of_setDoWrap {s : State} {b : Bool} (active : s.run = .active) (action : hostAction s = .setDoWrap b) :
    step s = .next (setDoWrap b (takeAction s)) := by
  rw [step, action, perform, whenActive_of_active (s := takeAction s) active]

theorem step_of_active {s : State} (active : s.run = .active) : ∃ t, step s = .next t := by
  rcases action : hostAction s with ⟨d, es⟩ | _ | bytes | b
  · obtain ⟨t, ht⟩ := tick_of_active (s := takeAction s) active d es
    exact ⟨t, (step_of_tick action).trans ht⟩
  · exact ⟨_, step_of_hardReset action⟩
  · exact ⟨_, step_of_loadProgram active action⟩
  · exact ⟨_, step_of_setDoWrap active action⟩

theorem step_of_stopped {s : State} {r : StopReason} (stopped : s.run = .stopped r)
    (action : hostAction s ≠ .hardReset) : step s = .refused .hostActionAfterStop := by
  unfold step
  rcases h : hostAction s with ⟨d, es⟩ | _ | bytes | b
  · exact whenActive_of_stopped (s := takeAction s) stopped _
  · exact absurd h action
  · exact whenActive_of_stopped (s := takeAction s) stopped _
  · exact whenActive_of_stopped (s := takeAction s) stopped _

/-- Settles O12: an active machine has a next state whatever the action, a stopped one after a hard reset only. -/
theorem onlyHardResetLeavesAStop : Obligations.OnlyHardResetLeavesAStop := by
  intro s
  rcases run : s.run with _ | r
  · obtain ⟨t, ht⟩ := step_of_active run
    exact ⟨by simp [ht], fun _ => ⟨t, ht⟩⟩
  · by_cases action : hostAction s = .hardReset
    · have ht := step_of_hardReset action
      exact ⟨by simp [ht, action], fun _ => ⟨_, ht⟩⟩
    · have refused := step_of_stopped run action
      exact ⟨by simp [refused, action], fun h => absurd refused h⟩

/-! ## Invariants of the step -/

/-- `P` is kept by each part of a step (60_exceptions.md R104, R126). -/
structure KeptByParts (P : State → Prop) : Prop where
  takeAction : ∀ {s}, P s → P (takeAction s)
  drained : ∀ {s} (d es), P s → P (drained d es s).2
  quit : ∀ {s}, P s → P (stop .quit s)
  exec : ∀ {i s t}, P s → s.run = .active → i.wellFormed = true → exec i s = .next t → P t
  reserved : ∀ {s w u}, P s → decode w = .reserved u → P (stop (.notImplemented w) s)
  hardReset : ∀ {s}, P s → P (hardReset s)
  writeBytes : ∀ {s} (a us), P s → P (writeBytes a us s)
  hostError : ∀ {s} (errors), P s → P { s with hostErrors := errors }
  setDoWrap : ∀ {s} (b), P s → P (setDoWrap b s)

/-- What the execute step can do: an instruction that is the decoding of a word, or the stop of a reserved word. -/
theorem executeStep_cases {s t : State} (h : executeStep s = .next t) :
    (∃ i, i.wellFormed = true ∧ exec i s = .next t) ∨
      ∃ w u, decode w = .reserved u ∧ t = stop (.notImplemented w) s := by
  rcases word : decodeBytes (fetchHigh s) (fetchLow s) with i | u
  · exact .inl ⟨i, (isWordOf_of_decode word).1, (executeStep_of_instr word).symm.trans h⟩
  · cases (executeStep_of_reserved word).symm.trans h
    obtain ⟨rfl, -⟩ := (reservedWordsAreUnknownSubOpcodes _ u).1 word
    exact .inr ⟨_, _, word, rfl⟩

theorem drained_run (d : Time) (es : List InputEvent) (s : State) : (drained d es s).2.run = s.run := by
  rw [drained, drainEvents_eq]
  rfl

theorem drained_mem (d : Time) (es : List InputEvent) (s : State) : (drained d es s).2.mem = s.mem := by
  rw [drained, drainEvents_eq]
  rfl

theorem drained_sp (d : Time) (es : List InputEvent) (s : State) : (drained d es s).2.sp = s.sp := by
  rw [drained, drainEvents_eq]
  rfl

/-- What each part of a step keeps the step keeps. -/
theorem step_keeps {P : State → Prop} (kept : KeptByParts P) {s t : State} (hs : P s) (h : step s = .next t) :
    P t := by
  have hs' := kept.takeAction hs
  obtain ⟨d, es, -, active, h⟩ | ⟨-, rfl⟩ | ⟨bytes, -, -, rfl⟩ | ⟨b, -, -, rfl⟩ := step_cases h
  · have hd := kept.drained d es hs'
    obtain ⟨-, ⟨-, rfl⟩ | ⟨-, -, rfl⟩ | ⟨-, -, h⟩⟩ := tick_next h
    · exact kept.quit hd
    · exact hd
    · obtain ⟨i, wellFormed, h⟩ | ⟨w, u, word, rfl⟩ := executeStep_cases h
      · exact kept.exec hd ((drained_run d es _).trans active) wellFormed h
      · exact kept.reserved hd word
  · exact kept.hardReset hs'
  · unfold loadProgram
    split
    · exact kept.writeBytes _ _ hs'
    · exact kept.hostError _ hs'
  · exact kept.setDoWrap b hs'

/-! ## SP (10_state.md R22) -/

theorem Effect.keeps_legalSP {i : Instr} {s t : State} (h : Effect s i t) (legal : legalSP s.sp) : legalSP t.sp := by
  cases h
  case pushes => exact .inl (Nat.le_of_lt_succ (toNat_spAfterCall_lt s.sp))
  case pops pc entry =>
    change legalSP (s.sp - 1#8)
    obtain low | fe | ff := legal
    · by_cases zero : s.sp = 0#8
      · rw [zero]
        decide
      · refine .inl ?_
        bv_omega
    · rw [fe] at entry
      exact absurd ⟨by decide, by decide⟩ entry
    · rw [ff]
      decide
  case memory a us _ =>
    rw [advancePC_sp, writeBytes_sp]
    exact legal
  all_goals exact legal

theorem keptByParts_legalSP : KeptByParts fun s => legalSP s.sp where
  takeAction h := h
  drained d es h := by
    rw [drained_sp]
    exact h
  quit h := h
  exec h _ _ hexec := (effect_of_exec hexec).keeps_legalSP h
  reserved h _ := h
  hardReset _ := .inr (.inr rfl)
  writeBytes a us h := by
    rw [writeBytes_sp]
    exact h
  hostError _ h := h
  setDoWrap _ h := h

/-- Settles O15: each part of a step keeps SP legal. -/
theorem stackPointerStaysLegal : Obligations.StackPointerStaysLegal :=
  ⟨.inr (.inr rfl), fun _ _ => step_keeps keptByParts_legalSP⟩

/-! ## The legal state -/

/-- The invariant speaks of four elements only. -/
theorem inv_congr {s t : State} (h : Inv s) (mem : t.mem = s.mem) (sp : t.sp = s.sp) (run : t.run = s.run)
    (calls : t.calls = s.calls) : Inv t :=
  ⟨mem ▸ h.mem, sp ▸ h.sp, by rw [sp, run]; exact h.run, calls ▸ h.calls⟩

/-- A stop with a cause keeps the state legal. -/
theorem inv_stop {s : State} (h : Inv s) {r : StopReason} (cause : legalRun s.sp (.stopped r)) : Inv (stop r s) :=
  ⟨h.mem, h.sp, cause, h.calls⟩

theorem Effect.keeps_mem_wf {i : Instr} {s t : State} (h : Effect s i t) (hwf : s.mem.wf) : t.mem.wf := by
  cases h
  case memory a us _ => exact writeBytes_wf us a hwf
  all_goals exact hwf

/-- SYS is recorded with its word, which is not that of CLS or RET (40_system_flow.md R67). -/
theorem unimplemented_sys {nnn : Addr12} (wellFormed : (Instr.sys nnn).wellFormed = true) :
    unimplemented (addrWord nnn) = true := by
  have isSys : encode (.sys nnn) = addrWord nnn := by
    apply BitVec.eq_of_toNat_eq
    rw [toNat_addrWord, encode, wordNNN, BitVec.toNat_append]
    simp
  rw [unimplemented, ← isSys, decode_encode wellFormed]

/-- The cause of an overflow in a run (60_exceptions.md R111): of the values RET fails on a run reaches 0xFE only. -/
theorem sp_of_overflowsAt {i : Instr} {p : Byte} (cause : overflowsAt i p) (legal : legalSP p) :
    p = 15#8 ∨ p = 0xFE#8 := by
  obtain ⟨-, full⟩ | ⟨-, low, high⟩ := cause
  · exact .inl full
  · obtain small | fe | rfl := legal
    · exact absurd (low.trans small) (by decide)
    · exact .inr fe
    · exact absurd high (by decide)

theorem Effect.keeps_legalRun {i : Instr} {s t : State} (h : Effect s i t) (wellFormed : i.wellFormed = true)
    (active : s.run = .active) (legal : legalSP s.sp) : legalRun t.sp t.run := by
  cases h
  case drawFails failure => exact failure
  case overflows cause => exact ⟨rfl, sp_of_overflowsAt cause legal⟩
  case notImplemented => exact unimplemented_sys wellFormed
  case memory a us _ =>
    rw [advancePC_run, writeBytes_run, active]
    trivial
  all_goals
    change legalRun _ s.run
    rw [active]
    trivial

/-- The `Draw` of a DRW keeps the Renderer's contract (60_exceptions.md R122). -/
theorem legalCall_drawn (x y : Reg) (n : BitVec 4) (s : State) :
    legalCall
      (.draw (spriteX x s) (spriteY y s) (spriteRows n s) (BitVec.ofNat 8 (spriteRows n s).length) s.doWrap) := by
  refine ⟨?_, ?_, ?_, ?_⟩
  · rw [toNat_spriteX]
    omega
  · rw [toNat_spriteY]
    omega
  · rw [toNat_rowCount, length_spriteRows]
  · rw [length_spriteRows]
    exact Nat.le_of_lt_succ n.isLt

theorem Effect.keeps_legalCalls {i : Instr} {s t : State} (h : Effect s i t) (legal : ∀ c ∈ s.calls, legalCall c) :
    ∀ c ∈ t.calls, legalCall c := by
  cases h
  case clears | random | testsKey => exact List.forall_mem_cons.2 ⟨trivial, legal⟩
  case draws x y n _ => exact List.forall_mem_cons.2 ⟨legalCall_drawn x y n s, legal⟩
  case drawFails x y n _ _ => exact List.forall_mem_cons.2 ⟨legalCall_drawn x y n s, legal⟩
  case memory a us _ =>
    rw [advancePC_calls, writeBytes_calls]
    exact legal
  all_goals exact legal

/-- The only call a drain makes is `GetKey` (60_exceptions.md R106). -/
theorem drainEvents_legalCalls : ∀ (es : List InputEvent) {s : State}, (∀ c ∈ s.calls, legalCall c) →
    ∀ c ∈ (drainEvents es s).2.calls, legalCall c
  | [], _, legal => legal
  | .quit :: _, _, legal => legal
  | .none :: es, s, legal => drainEvents_legalCalls es (s := s) legal
  | .keyDown k :: es, s, legal => by
    rw [drainEvents]
    split
    · exact drainEvents_legalCalls es (List.forall_mem_cons.2 ⟨trivial, legal⟩)
    · exact drainEvents_legalCalls es legal

theorem inv_drained {s : State} (d : Time) (es : List InputEvent) (h : Inv s) : Inv (drained d es s).2 where
  mem := drained_mem d es s ▸ h.mem
  sp := drained_sp d es s ▸ h.sp
  run := by
    rw [drained_sp, drained_run]
    exact h.run
  calls := drainEvents_legalCalls _ (s := timerUpdate d s) h.calls

theorem keptByParts_inv : KeptByParts Inv where
  takeAction h := inv_congr h rfl rfl rfl rfl
  drained d es h := inv_drained d es h
  quit h := inv_stop h trivial
  exec h active wellFormed hexec :=
    have effect := effect_of_exec hexec
    ⟨effect.keeps_mem_wf h.mem, effect.keeps_legalSP h.sp, effect.keeps_legalRun wellFormed active h.sp,
      effect.keeps_legalCalls h.calls⟩
  reserved h word := inv_stop h (by rw [legalRun, unimplemented, word])
  hardReset h := ⟨wf_nil, .inr (.inr rfl), trivial, List.forall_mem_cons.2 ⟨trivial, h.calls⟩⟩
  writeBytes a us h :=
    ⟨writeBytes_wf us a h.mem, by rw [writeBytes_sp]; exact h.sp, by rw [writeBytes_sp, writeBytes_run]; exact h.run,
      by rw [writeBytes_calls]; exact h.calls⟩
  hostError _ h := inv_congr h rfl rfl rfl rfl
  setDoWrap _ h := inv_congr h rfl rfl rfl rfl

/-- Settles O13: each part of a step keeps the state legal. An instruction does since every effect does, and the one
executed is the decoding of a word, so that SYS records the word of a SYS. -/
theorem stepKeepsLegalState : Obligations.StepKeepsLegalState := fun _ _ => step_keeps keptByParts_inv

/-- Settles O14: the memory is empty, SP is 0xFF, the run is active and the one call is `ClearScreen`. -/
theorem resetStateIsLegal : Obligations.ResetStateIsLegal :=
  ⟨wf_nil, .inr (.inr rfl), trivial, List.forall_mem_cons.2 ⟨trivial, fun _ h => absurd h List.not_mem_nil⟩⟩

end Sys2Proof.Machine

/-!
PROOFS. Noninterference: ST and AccST reach nothing else (10_state.md R24), and DoWrap no instruction but DRW (R27).
-/
namespace Sys2Proof.Machine

/-- `s` with other values in the elements that almost no instruction reads: ST, AccST and DoWrap. -/
def withUnread (st : Byte) (acc : Time) (b : Bool) (s : State) : State := { s with st := st, accST := acc, doWrap := b }

theorem withUnread_of_sound {s : State} {st : Byte} {acc : Time} (hst : s.st = st) (hacc : s.accST = acc) (b : Bool) :
    withUnread st acc b s = { s with doWrap := b } := by
  rw [withUnread, ← hst, ← hacc]

section
variable (st : Byte) (acc : Time) (b : Bool)

theorem skipIf_withUnread (c : Bool) (s : State) :
    skipIf c (withUnread st acc b s) = withUnread st acc b (skipIf c s) := by cases c <;> rfl

theorem writeBytes_withUnread : ∀ (us : List Byte) (a : Nat) (s : State),
    writeBytes a us (withUnread st acc b s) = withUnread st acc b (writeBytes a us s)
  | [], _, _ => rfl
  | u :: us, a, s => writeBytes_withUnread us (a + 1) (writeByte a u s)

/-- An instruction that neither draws nor writes ST does the same whatever these elements hold. -/
theorem exec_withUnread {i : Instr} {s t : State} (notDrw : ∀ x y n, i ≠ .drw x y n) (notST : ∀ x, i ≠ .ldSTVx x)
    (h : exec i s = .next t) : exec i (withUnread st acc b s) = .next (withUnread st acc b t) := by
  cases i
  case drw x y n => exact absurd rfl (notDrw x y n)
  case ldSTVx x => exact absurd rfl (notST x)
  case ret =>
    by_cases overflow : retOverflows s.sp
    · cases (exec_ret_of_overflow overflow).symm.trans h
      exact exec_ret_of_overflow (s := withUnread st acc b s) overflow
    · cases (exec_ret_of_entry overflow).symm.trans h
      exact exec_ret_of_entry (s := withUnread st acc b s) overflow
  case call nnn =>
    by_cases full : s.sp = 15#8
    · cases (exec_call_of_full nnn full).symm.trans h
      exact exec_call_of_full nnn (s := withUnread st acc b s) full
    · cases (exec_call_of_room nnn full).symm.trans h
      exact exec_call_of_room nnn (s := withUnread st acc b s) full
  case seByte | sneByte | seReg | sneReg =>
    cases h
    exact congrArg (finish _) (skipIf_withUnread st acc b _ s)
  case skp x | sknp x =>
    cases h
    exact congrArg (finish _) (skipIf_withUnread st acc b _ (afterKeyTest (readReg x s) s))
  case storeRegs =>
    cases h
    exact congrArg (finish _) (writeBytes_withUnread st acc b _ _ s)
  all_goals
    cases h
    rfl

end

/-- Settles O56: DoWrap is among the elements that are not read; ST and AccST keep their values. -/
theorem doWrapInfluencesOnlyDrw : Obligations.DoWrapInfluencesOnlyDrw := by
  intro i s t b notDrw h
  by_cases writesST : ∃ x, i = .ldSTVx x
  · obtain ⟨x, rfl⟩ := writesST
    cases h
    rfl
  · have notST := not_exists.1 writesST
    obtain ⟨hst, hacc⟩ := (effect_of_exec h).sound_eq notST
    have frame := exec_withUnread s.st s.accST b notDrw notST h
    rwa [withUnread_of_sound rfl rfl, withUnread_of_sound hst hacc] at frame

/-! ## The sound timer over a whole step -/

/-- `s` with another sound timer. -/
def withSound (st : Byte) (acc : Time) (s : State) : State := { s with st := st, accST := acc }

section
variable (st : Byte) (acc : Time)

theorem withUnread_eq_withSound (s : State) : withUnread st acc s.doWrap s = withSound st acc s := rfl

theorem writeBytes_withSound (us : List Byte) (a : Nat) (s : State) :
    writeBytes a us (withSound st acc s) = withSound st acc (writeBytes a us s) := by
  rw [← withUnread_eq_withSound, writeBytes_withUnread, ← withUnread_eq_withSound, writeBytes_doWrap]

theorem exec_drw_withSound (x y : Reg) (n : BitVec 4) {s t : State} (h : exec (.drw x y n) s = .next t) :
    exec (.drw x y n) (withSound st acc s) = .next (withSound st acc t) := by
  by_cases done : (answerToDraw x y n s).errorCode = 0
  · cases (exec_drw_of_no_error done).symm.trans h
    exact exec_drw_of_no_error (s := withSound st acc s) done
  · cases (exec_drw_of_error done).symm.trans h
    exact exec_drw_of_error (s := withSound st acc s) done

theorem exec_withSound {i : Instr} {s t : State} (h : exec i s = .next t) :
    ∃ st' acc', exec i (withSound st acc s) = .next (withSound st' acc' t) := by
  by_cases draws : ∃ x y n, i = .drw x y n
  · obtain ⟨x, y, n, rfl⟩ := draws
    exact ⟨st, acc, exec_drw_withSound st acc x y n h⟩
  · by_cases writesST : ∃ x, i = .ldSTVx x
    · obtain ⟨x, rfl⟩ := writesST
      cases h
      exact ⟨readReg x s, 0, rfl⟩
    · have frame := exec_withUnread st acc s.doWrap (fun x y n hi => draws ⟨x, y, n, hi⟩) (not_exists.1 writesST) h
      rw [withUnread_eq_withSound, ← (effect_of_exec h).doWrap_eq, withUnread_eq_withSound] at frame
      exact ⟨st, acc, frame⟩

theorem executeStep_withSound {s t : State} (h : executeStep s = .next t) :
    ∃ st' acc', executeStep (withSound st acc s) = .next (withSound st' acc' t) := by
  rcases word : decodeBytes (fetchHigh s) (fetchLow s) with i | w
  · rw [executeStep_of_instr word] at h
    rw [executeStep_of_instr (s := withSound st acc s) word]
    exact exec_withSound st acc h
  · cases (executeStep_of_reserved word).symm.trans h
    exact ⟨st, acc, executeStep_of_reserved (s := withSound st acc s) word⟩

theorem drainEvents_withSound : ∀ (es : List InputEvent) (s : State),
    drainEvents es (withSound st acc s) = Prod.map id (withSound st acc) (drainEvents es s)
  | [], _ => rfl
  | .quit :: _, _ => rfl
  | .none :: es, s => drainEvents_withSound es s
  | .keyDown k :: es, s => by
    have branch : (withSound st acc s).suspended = s.suspended := rfl
    rw [drainEvents, drainEvents, branch]
    split
    · exact drainEvents_withSound es (resume k s)
    · exact drainEvents_withSound es s

theorem drained_withSound (d : Time) (es : List InputEvent) (s : State) :
    drained d es (withSound st acc s) =
      ((drained d es s).1, withSound (timerAfter st acc d) (accAfter acc d) (drained d es s).2) :=
  drainEvents_withSound (timerAfter st acc d) (accAfter acc d) (s.pending ++ es) (timerUpdate d s)

theorem tick_withSound {d : Time} {es : List InputEvent} {s t : State} (h : tick d es s = .next t) :
    ∃ st' acc', tick d es (withSound st acc s) = .next (withSound st' acc' t) := by
  have other := drained_withSound st acc d es s
  obtain ⟨active, ⟨quit, rfl⟩ | ⟨noQuit, wait, rfl⟩ | ⟨noQuit, running, h⟩⟩ := tick_next h
  · rw [quit] at other
    exact ⟨timerAfter st acc d, accAfter acc d, tick_of_quit (s := withSound st acc s) active other⟩
  · rw [noQuit] at other
    exact ⟨_, _, tick_of_wait (s := withSound st acc s) active other wait⟩
  · rw [noQuit] at other
    rw [tick_of_ready (s := withSound st acc s) active other running]
    exact executeStep_withSound _ _ h

theorem step_withSound {s t : State} (h : step s = .next t) :
    ∃ st' acc', step (withSound st acc s) = .next (withSound st' acc' t) := by
  obtain ⟨d, es, action, -, h⟩ | ⟨action, rfl⟩ | ⟨bytes, action, active, rfl⟩ | ⟨b, action, active, rfl⟩ := step_cases h
  · rw [step_of_tick (s := withSound st acc s) action]
    exact tick_withSound st acc h
  · exact ⟨0x00#8, 0, step_of_hardReset (s := withSound st acc s) action⟩
  · rw [step_of_loadProgram (s := withSound st acc s) active action]
    refine ⟨st, acc, congrArg Host.Outcome.next ?_⟩
    unfold loadProgram
    split
    · exact writeBytes_withSound st acc _ _ (takeAction s)
    · rfl
  · exact ⟨st, acc, step_of_setDoWrap (s := withSound st acc s) active action⟩

end

/-- Settles O55: a next state is that of `step_withSound`, and a refusal (O12) does not depend on the sound timer. -/
theorem soundTimerInfluencesNothingElse : Obligations.SoundTimerInfluencesNothingElse := by
  refine fun s st acc => ⟨fun t => step_withSound st acc, fun r refused => ?_⟩
  obtain ⟨stop, next⟩ := onlyHardResetLeavesAStop s
  by_cases h : step s = .refused .hostActionAfterStop
  · cases h.symm.trans refused
    obtain ⟨⟨reason, stopped⟩, action⟩ := stop.1 h
    exact step_of_stopped (s := withSound st acc s) stopped action
  · obtain ⟨t, ht⟩ := next h
    cases ht.symm.trans refused

end Sys2Proof.Machine

/-!
PROOFS. Memory as a function of its addresses (20_memory.md R36, R37, R49), and reset and the Host's other operations
(60_exceptions.md R125, R126; 70_reset_and_hazards.md R135, R138).
-/
namespace Sys2Proof.Machine

/-! ## Canonical memories -/

/-- A listed address does not read as an unlisted one, so the head of one memory is listed in any that reads alike. -/
theorem exists_cell_of_memLookup {a : Nat} {u : Byte} (listed : u ≠ unlistedByte a) : ∀ {m : Memory},
    memLookup a m = u → ∃ c ∈ m, c.1 = a
  | [], h => absurd h.symm listed
  | (b, w) :: m, h => by
    by_cases hab : a = b
    · exact ⟨(b, w), List.mem_cons_self, hab.symm⟩
    · rw [memLookup, if_neg hab] at h
      obtain ⟨c, hc, hca⟩ := exists_cell_of_memLookup listed h
      exact ⟨c, List.mem_cons_of_mem _ hc, hca⟩

theorem memLookup_head (a : Nat) (u : Byte) (m : Memory) : memLookup a ((a, u) :: m) = u := if_pos rfl

/-- The head of a canonical memory is not above the head of one that reads alike. -/
theorem head_le_of_reads_alike {a b : Nat} {u w : Byte} {m n : Memory} (hm : Memory.wf ((a, u) :: m))
    (hn : Memory.wf ((b, w) :: n)) (alike : ∀ c, memLookup c ((a, u) :: m) = memLookup c ((b, w) :: n)) : a ≤ b := by
  obtain ⟨below, -, -, -⟩ := wf_cons.1 hm
  obtain ⟨-, -, listed, -⟩ := wf_cons.1 hn
  obtain ⟨c, hc, rfl⟩ := exists_cell_of_memLookup listed ((alike b).trans (memLookup_head b w n))
  obtain rfl | hc := List.mem_cons.1 hc
  · exact Nat.le_refl _
  · exact Nat.le_of_lt (below c hc)

/-- The tails of canonical memories with the same head read alike: at the head's address both read as unlisted. -/
theorem tails_read_alike {a : Nat} {u : Byte} {m n : Memory} (hm : ∀ c ∈ m, a < c.1) (hn : ∀ c ∈ n, a < c.1)
    (alike : ∀ c, memLookup c ((a, u) :: m) = memLookup c ((a, u) :: n)) (c : Nat) :
    memLookup c m = memLookup c n := by
  by_cases hca : c = a
  · rw [hca, memLookup_of_below hm, memLookup_of_below hn]
  · simpa only [memLookup, if_neg hca] using alike c

/-- A canonical memory with an entry does not read like the empty one. -/
theorem not_reads_as_empty {b : Nat} {w : Byte} {n : Memory} (hn : Memory.wf ((b, w) :: n)) :
    memLookup b ((b, w) :: n) ≠ memLookup b [] := by
  obtain ⟨-, -, listed, -⟩ := wf_cons.1 hn
  rwa [memLookup_head]

theorem eq_of_reads_alike : ∀ {m n : Memory}, m.wf → n.wf → (∀ a, memLookup a m = memLookup a n) → m = n
  | [], [], _, _, _ => rfl
  | [], (b, _) :: _, _, hn, alike => absurd (alike b).symm (not_reads_as_empty hn)
  | (a, _) :: _, [], hm, _, alike => absurd (alike a) (not_reads_as_empty hm)
  | (a, u) :: m, (b, w) :: n, hm, hn, alike => by
    obtain rfl : a = b :=
      Nat.le_antisymm (head_le_of_reads_alike hm hn alike) (head_le_of_reads_alike hn hm fun c => (alike c).symm)
    obtain rfl : u = w := (memLookup_head a u m).symm.trans ((alike a).trans (memLookup_head a w n))
    obtain ⟨belowM, -, -, hm⟩ := wf_cons.1 hm
    obtain ⟨belowN, -, -, hn⟩ := wf_cons.1 hn
    rw [eq_of_reads_alike hm hn (tails_read_alike belowM belowN alike)]

/-- Settles O16: the heads are equal, since each is listed in the other memory, and so are the tails. -/
theorem canonicalMemoriesThatReadAlikeAreEqual : Obligations.CanonicalMemoriesThatReadAlikeAreEqual :=
  fun _ _ => eq_of_reads_alike

/-! ## One byte written -/

theorem readByte_writeByte (a b : Nat) (u : Byte) {s : State} (hwf : s.mem.wf) :
    readByte b (writeByte a u s) = if b % 0x1000 = a % 0x1000 then u else readByte b s := by
  split
  next same => exact readByte_writeByte_same u hwf same
  next other => exact readByte_writeByte_ne u s other

/-- A repeated write leaves the memory it finds, since both memories are canonical and read alike. -/
theorem writeByte_idem (a : Nat) (u : Byte) {s : State} (hwf : s.mem.wf) :
    writeByte a u (writeByte a u s) = writeByte a u s := by
  have hwf' := writeByte_wf a u hwf
  have mem : (writeByte a u (writeByte a u s)).mem = (writeByte a u s).mem := by
    refine eq_of_reads_alike (writeByte_wf a u hwf') hwf' fun c => ?_
    by_cases hc : c = reduceAddr a
    · rw [hc]
      exact (memLookup_memInsert_same _ u hwf').trans (memLookup_memInsert_same _ u hwf).symm
    · exact memLookup_memInsert_ne u hc _
  exact congrArg (fun m => { s with mem := m }) mem

/-- Settles O17: reads reduce their address, and a write is seen at its own address only. -/
theorem writeChangesOneByteModuloMemorySize : Obligations.WriteChangesOneByteModuloMemorySize :=
  fun a b u s hwf => ⟨(readByte_mod_memSize a s).symm, readByte_writeByte a b u hwf, rfl, writeByte_idem a u hwf⟩

/-! ## Hard reset -/

theorem hostAction_of_script {s : State} {a : HostAction} {rest : List HostAction} (h : s.script = a :: rest) :
    hostAction s = a := by rw [hostAction, h, List.headD_cons]

theorem takeAction_of_script {s : State} {a : HostAction} {rest : List HostAction} (h : s.script = a :: rest) :
    takeAction s = { s with script := rest } := by rw [takeAction, h, List.tail_cons]

/-- After a hard reset every byte is the font's or 0 (10_state.md R31, 20_memory.md R49). -/
theorem readByte_hardReset {a : Nat} (h : a < 0x1000) (s : State) : readByte a (hardReset s) = unlistedByte a :=
  congrArg unlistedByte (Nat.mod_eq_of_lt h)

theorem length_font : font.length = 0x50 := by decide

theorem some_unlistedByte {a : Nat} (h : a < 0x50) : some (unlistedByte a) = font[a]? := by
  have inFont : a < font.length := length_font ▸ h
  rw [unlistedByte, List.getElem?_eq_getElem inFont, Option.getD_some]

theorem unlistedByte_above {a : Nat} (h : 0x50 ≤ a) : unlistedByte a = 0#8 := by
  rw [unlistedByte, List.getElem?_eq_none (length_font ▸ h), Option.getD_none]

/-- Settles O57: the step is `hardReset`, which writes every element of the core as its definition says. -/
theorem hardResetGivesColdStartValues : Obligations.HardResetGivesColdStartValues := by
  intro s rest script
  refine ⟨_, step_of_hardReset (hostAction_of_script script), fun r => ?_, rfl, rfl, rfl, fun j hj => ?_, rfl, rfl, rfl,
    rfl, rfl, rfl, rfl, fun a ha => ?_, fun a low high => ?_, rfl, pixel_replicate_zero, rfl, ?_⟩
  · exact Vector.getElem_replicate r.isLt
  · exact Vector.getElem?_replicate_of_lt hj
  · rw [readByte_hardReset (ha.trans (by decide)), some_unlistedByte ha]
  · rw [readByte_hardReset high, unlistedByte_above low]
  · rw [takeAction_of_script script]
    rfl

/-- The word that no program has placed is that of SYS 0 (70_reset_and_hazards.md R138). -/
theorem decodeBytes_zero : decodeBytes 0x00#8 0x00#8 = .instr (.sys 0x000#12) := by decide

/-- Settles O58: a drain without a Quit leaves the running core that the reset made, and it fetches the word 0. -/
theorem tickWithoutProgramStops : Obligations.TickWithoutProgramStops := by
  intro s d es noQuit
  have h : drained d es (hardReset s) = (false, { timerUpdate d (hardReset s) with pending := [] }) :=
    drainEvents_of_running rfl noQuit
  have word : decodeBytes (fetchHigh { timerUpdate d (hardReset s) with pending := [] })
      (fetchLow { timerUpdate d (hardReset s) with pending := [] }) = .instr (.sys 0x000#12) := by
    have high : fetchHigh { timerUpdate d (hardReset s) with pending := [] } = 0x00#8 :=
      (readByte_hardReset (a := 0x200) (by decide) s).trans (unlistedByte_above (by decide))
    have low : fetchLow { timerUpdate d (hardReset s) with pending := [] } = 0x00#8 :=
      (readByte_hardReset (a := 0x201) (by decide) s).trans (unlistedByte_above (by decide))
    rw [high, low, decodeBytes_zero]
  exact ⟨_, (tick_of_ready rfl h rfl).trans ((executeStep_of_instr word).trans (exec_sys _ _)), rfl, rfl⟩

/-! ## LoadProgram and DoWrap -/

/-- Settles O59: a program that fits is a block written at 0x200, which does not lap memory. -/
theorem loadProgramCopiesOrRecordsAnError : Obligations.LoadProgramCopiesOrRecordsAnError := by
  intro s bytes rest script active
  refine ⟨_, step_of_loadProgram active (hostAction_of_script script), ?_⟩
  rw [takeAction_of_script script]
  split
  next fits =>
    have copies : loadProgram bytes { s with script := rest } = writeBytes 0x200 bytes { s with script := rest } :=
      if_pos fits
    rw [copies]
    refine ⟨fun hwf k hk => ?_, fun b => readByte_writeBytes_outside bytes 0x200 _, ?_⟩
    · rw [readByte_writeBytes_at (s := { s with script := rest }) bytes 0x200 hwf (fits.trans (by decide)) hk,
        List.getElem?_eq_getElem hk]
    · rw [writeBytes_eq]
  next tooLong => exact if_neg tooLong

/-- Settles O60: the step is `setDoWrap`. -/
theorem hostSetsDoWrapOnly : Obligations.HostSetsDoWrapOnly := by
  intro s wrap rest script active
  refine ⟨_, step_of_setDoWrap active (hostAction_of_script script), rfl, ?_, sameMemory_of_mem_eq rfl⟩
  rw [takeAction_of_script script]
  rfl

end Sys2Proof.Machine

/-!
PROOFS. The reference Renderer's `Draw` (60_exceptions.md R122, R127): its loops flip the pixels of the sprite one by
one, no pixel twice, so that all of them together are flipped against the display before the call.
-/
namespace Sys2Proof.Machine

/-! ## Flipping a set of pixels -/

/-- From `acc` to `acc'` the pixels of the display that are in `S` are flipped, no other is, and the collision so far
takes in whether one of them was set. -/
structure Flips (S : Nat → Nat → Prop) (acc acc' : Bool × Framebuffer) : Prop where
  flipped : ∀ px py, px < 64 → py < 32 → S px py → pixel px py acc'.2 = !pixel px py acc.2
  kept : ∀ px py, px < 64 → py < 32 → ¬S px py → pixel px py acc'.2 = pixel px py acc.2
  collision : acc'.1 = true ↔ acc.1 = true ∨ ∃ px py, px < 64 ∧ py < 32 ∧ S px py ∧ pixel px py acc.2 = true

/-- Nothing is done for pixels that are not on the display. -/
theorem flips_of_outside {S : Nat → Nat → Prop} (outside : ∀ px py, px < 64 → py < 32 → ¬S px py)
    (acc : Bool × Framebuffer) : Flips S acc acc where
  flipped px py hx hy h := absurd h (outside px py hx hy)
  kept _ _ _ _ _ := rfl
  collision := ⟨.inl, fun
    | .inl h => h
    | .inr ⟨px, py, hx, hy, h, _⟩ => absurd h (outside px py hx hy)⟩

/-- Flips of disjoint sets, one after the other, are a flip of both. -/
theorem Flips.trans {S T U : Nat → Nat → Prop} {acc acc' acc'' : Bool × Framebuffer} (first : Flips S acc acc')
    (second : Flips T acc' acc'') (disjoint : ∀ px py, S px py → ¬T px py)
    (both : ∀ px py, U px py ↔ S px py ∨ T px py) : Flips U acc acc'' where
  flipped px py hx hy h := by
    obtain hS | hT := (both px py).1 h
    · rw [second.kept px py hx hy (disjoint px py hS), first.flipped px py hx hy hS]
    · rw [second.flipped px py hx hy hT, first.kept px py hx hy fun hS => disjoint px py hS hT]
  kept px py hx hy h := by
    obtain ⟨hS, hT⟩ := not_or.1 (mt (both px py).2 h)
    rw [second.kept px py hx hy hT, first.kept px py hx hy hS]
  collision := by
    rw [second.collision, first.collision]
    constructor
    · rintro ((h | ⟨px, py, hx, hy, hS, set⟩) | ⟨px, py, hx, hy, hT, set⟩)
      · exact .inl h
      · exact .inr ⟨px, py, hx, hy, (both px py).2 (.inl hS), set⟩
      · rw [first.kept px py hx hy fun hS => disjoint px py hS hT] at set
        exact .inr ⟨px, py, hx, hy, (both px py).2 (.inr hT), set⟩
    · rintro (h | ⟨px, py, hx, hy, hU, set⟩)
      · exact .inl (.inl h)
      · obtain hS | hT := (both px py).1 hU
        · exact .inl (.inr ⟨px, py, hx, hy, hS, set⟩)
        · rw [← first.kept px py hx hy fun hS => disjoint px py hS hT] at set
          exact .inr ⟨px, py, hx, hy, hT, set⟩

/-! ## One pixel -/

theorem pixel_flipPixel_same {px py : Nat} (hx : px < 64) (hy : py < 32) (fb : Framebuffer) :
    pixel px py (flipPixel px py fb) = !pixel px py fb := by
  simp [pixel, flipPixel, hx, hy]

theorem getLsbD_one_shiftLeft_ne {px qx : Nat} (h : qx ≠ px) : (1#64 <<< px).getLsbD qx = false := by
  rw [BitVec.getLsbD_shiftLeft, BitVec.getLsbD_one]
  by_cases below : qx < px
  · simp [below]
  · have above : qx - px ≠ 0 := by omega
    simp [above]

theorem pixel_flipPixel_ne {px py qx qy : Nat} (h : ¬(qx = px ∧ qy = py)) (fb : Framebuffer) :
    pixel qx qy (flipPixel px py fb) = pixel qx qy fb := by
  by_cases hy : qy = py
  · have hx : qx ≠ px := fun hx => h ⟨hx, hy⟩
    subst hy
    by_cases hin : qy < 32
    · simp [pixel, flipPixel, hin, getLsbD_one_shiftLeft_ne hx]
    · simp [pixel, flipPixel, hin]
  · simp [pixel, flipPixel, Ne.symm hy]

theorem drawPixel_flips (row : Byte) (c : Nat) {px py : Nat} (hx : px < 64) (hy : py < 32)
    (acc : Bool × Framebuffer) :
    Flips (fun qx qy => row.getLsbD (7 - c) = true ∧ qx = px ∧ qy = py) acc (drawPixel row c px py acc) := by
  unfold drawPixel
  split
  next bit =>
    refine ⟨?_, fun qx qy _ _ h => pixel_flipPixel_ne (fun heq => h ⟨bit, heq⟩) acc.2, ?_⟩
    · rintro qx qy - - ⟨-, rfl, rfl⟩
      exact pixel_flipPixel_same hx hy acc.2
    · simp only [Bool.or_eq_true, bit, true_and]
      refine or_congr Iff.rfl ⟨fun set => ⟨px, py, hx, hy, ⟨rfl, rfl⟩, set⟩, ?_⟩
      rintro ⟨qx, qy, -, -, ⟨rfl, rfl⟩, set⟩
      exact set
  next bit => exact flips_of_outside (fun _ _ _ _ h => bit h.1) acc

/-! ## The columns of a row -/

/-- The column of the display on which the sprite's column `c` falls: from 64 on it is clipped. -/
def columnOf (wrap : Bool) (x c : Nat) : Nat := if wrap then (x + c) % 64 else x + c

/-- The row of the display on which a sprite's row at `y` falls: from 32 on it is clipped. -/
def rowOf (wrap : Bool) (y : Nat) : Nat := if wrap then y % 32 else y

theorem drawColumns_cons (wrap : Bool) (x py : Nat) (row : Byte) (c : Nat) (cs : List Nat) (acc : Bool × Framebuffer) :
    drawColumns wrap x py row (c :: cs) acc =
      if 64 ≤ columnOf wrap x c then acc
      else drawColumns wrap x py row cs (drawPixel row c (columnOf wrap x c) py acc) := by
  cases wrap
  · rfl
  · have onDisplay : ¬64 ≤ columnOf true x c := Nat.not_le.2 (Nat.mod_lt _ (by decide))
    rw [if_neg onDisplay]
    rfl

/-- Eight columns fall on eight different columns of the display. -/
theorem columnOf_ne (wrap : Bool) (x : Nat) {c c' : Nat} (h : c < c') (h' : c' < 8) :
    columnOf wrap x c ≠ columnOf wrap x c' := by
  cases wrap <;> simp only [columnOf, Bool.false_eq_true, if_false, if_true] <;> omega

/-- Past the right edge every further column is clipped too. -/
theorem columnOf_clipped {wrap : Bool} {x c c' : Nat} (h : 64 ≤ columnOf wrap x c) (hc : c ≤ c') :
    64 ≤ columnOf wrap x c' := by
  cases wrap <;> simp only [columnOf, Bool.false_eq_true, if_false, if_true] at * <;> omega

theorem drawColumns_flips (wrap : Bool) (x : Nat) {py : Nat} (hy : py < 32) (row : Byte) :
    ∀ (cs : List Nat) (acc : Bool × Framebuffer), cs.Pairwise (· < ·) → (∀ c ∈ cs, c < 8) →
      Flips (fun qx qy => ∃ c ∈ cs, row.getLsbD (7 - c) = true ∧ qx = columnOf wrap x c ∧ qy = py) acc
        (drawColumns wrap x py row cs acc)
  | [], acc, _, _ => flips_of_outside (fun _ _ _ _ ⟨_, hc, _⟩ => absurd hc List.not_mem_nil) acc
  | c :: cs, acc, rises, small => by
    obtain ⟨later, rises⟩ := List.pairwise_cons.1 rises
    obtain ⟨-, small⟩ := List.forall_mem_cons.1 small
    rw [drawColumns_cons]
    split
    next clipped =>
      refine flips_of_outside ?_ acc
      rintro qx qy hx - ⟨c', hc', -, rfl, -⟩
      have notEarlier : c ≤ c' := by
        obtain rfl | hc' := List.mem_cons.1 hc'
        · exact Nat.le_refl _
        · exact Nat.le_of_lt (later c' hc')
      exact absurd hx (Nat.not_lt.2 (columnOf_clipped clipped notEarlier))
    next onDisplay =>
      refine (drawPixel_flips row c (Nat.not_le.1 onDisplay) hy acc).trans
        (drawColumns_flips wrap x hy row cs _ rises small) ?_ fun qx qy => by
          simp only [List.mem_cons, exists_eq_or_imp]
      rintro qx qy ⟨-, hqx, -⟩ ⟨c', hc', -, hqx', -⟩
      exact columnOf_ne wrap x (later c' hc') (small c' hc') (hqx.symm.trans hqx')

/-! ## The rows of a sprite -/

theorem drawRows_cons (wrap : Bool) (x y : Nat) (row : Byte) (rows : List Byte) (acc : Bool × Framebuffer) :
    drawRows wrap x y (row :: rows) acc =
      if 32 ≤ rowOf wrap y then acc
      else drawRows wrap x (y + 1) rows (drawColumns wrap x (rowOf wrap y) row (List.range 8) acc) := by
  cases wrap
  · rfl
  · have onDisplay : ¬32 ≤ rowOf true y := Nat.not_le.2 (Nat.mod_lt _ (by decide))
    rw [if_neg onDisplay]
    rfl

/-- Rows less than 32 apart fall on different rows of the display. -/
theorem rowOf_ne (wrap : Bool) (y : Nat) {r : Nat} (h : r + 1 < 32) : rowOf wrap y ≠ rowOf wrap (y + 1 + r) := by
  cases wrap <;> simp only [rowOf, Bool.false_eq_true, if_false, if_true] <;> omega

/-- Past the bottom every further row is clipped too. -/
theorem rowOf_clipped {wrap : Bool} {y : Nat} (h : 32 ≤ rowOf wrap y) (r : Nat) : 32 ≤ rowOf wrap (y + r) := by
  cases wrap <;> simp only [rowOf, Bool.false_eq_true, if_false, if_true] at * <;> omega

/-- The pixels of a sprite whose rows are placed from row `y` on: those where it has a bit set. -/
def spritePixels (wrap : Bool) (x y : Nat) (rows : List Byte) (qx qy : Nat) : Prop :=
  ∃ r c, r < rows.length ∧ c < 8 ∧ ((rows[r]?).getD 0#8).getLsbD (7 - c) = true ∧
    qx = columnOf wrap x c ∧ qy = rowOf wrap (y + r)

/-- The pixels of a sprite are those of its first row and those of the rows after it. -/
theorem spritePixels_cons (wrap : Bool) (x y : Nat) (row : Byte) (rows : List Byte) (qx qy : Nat) :
    spritePixels wrap x y (row :: rows) qx qy ↔
      (∃ c ∈ List.range 8, row.getLsbD (7 - c) = true ∧ qx = columnOf wrap x c ∧ qy = rowOf wrap y) ∨
        spritePixels wrap x (y + 1) rows qx qy := by
  constructor
  · rintro ⟨_ | r, c, hr, hc, bit, hx, hy⟩
    · exact .inl ⟨c, List.mem_range.2 hc, bit, hx, hy⟩
    · refine .inr ⟨r, c, Nat.lt_of_succ_lt_succ hr, hc, bit, hx, ?_⟩
      rw [hy, Nat.add_assoc, Nat.add_comm 1]
  · rintro (⟨c, hc, bit, hx, hy⟩ | ⟨r, c, hr, hc, bit, hx, hy⟩)
    · exact ⟨0, c, Nat.succ_pos _, List.mem_range.1 hc, bit, hx, hy⟩
    · refine ⟨r + 1, c, Nat.succ_lt_succ hr, hc, bit, hx, ?_⟩
      rw [hy, Nat.add_assoc, Nat.add_comm 1]

theorem drawRows_flips (wrap : Bool) (x : Nat) : ∀ (rows : List Byte) (y : Nat) (acc : Bool × Framebuffer),
    rows.length ≤ 32 → Flips (spritePixels wrap x y rows) acc (drawRows wrap x y rows acc)
  | [], _, acc, _ => flips_of_outside (fun _ _ _ _ ⟨_, _, hr, _⟩ => absurd hr (Nat.not_lt_zero _)) acc
  | row :: rows, y, acc, short => by
    rw [drawRows_cons]
    split
    next clipped =>
      refine flips_of_outside ?_ acc
      rintro qx qy - hy ⟨r, c, -, -, -, -, rfl⟩
      exact absurd hy (Nat.not_lt.2 (rowOf_clipped clipped r))
    next onDisplay =>
      have firstRow := drawColumns_flips wrap x (Nat.not_le.1 onDisplay) row (List.range 8) acc
        List.pairwise_lt_range fun _ => List.mem_range.1
      refine firstRow.trans (drawRows_flips wrap x rows (y + 1) _ (Nat.le_of_succ_le short)) ?_
        (spritePixels_cons wrap x y row rows)
      rintro qx qy ⟨-, -, -, -, hy⟩ ⟨r, -, hr, -, -, -, hy'⟩
      exact rowOf_ne wrap y (Nat.lt_of_lt_of_le (Nat.succ_lt_succ hr) short) (hy.symm.trans hy')

/-- Settles O38: the pixels the statement calls covered are those of the sprite, and `Draw` starts without a
collision. -/
theorem referenceDrawXorsTheSprite : Obligations.ReferenceDrawXorsTheSprite := by
  intro x y rows wrap fb _ _ short covered
  have sprite : covered = spritePixels wrap x.toNat y.toNat rows := by
    cases wrap <;> rfl
  have flips : Flips covered (false, fb) (referenceDraw x y rows wrap fb) :=
    sprite ▸ drawRows_flips wrap x.toNat rows y.toNat (false, fb) (short.trans (by decide))
  refine ⟨fun px py hx hy => ⟨flips.flipped px py hx hy, flips.kept px py hx hy⟩, flips.collision.trans ?_⟩
  simp only [Bool.false_eq_true, false_or]

end Sys2Proof.Machine
